-- ==== Sys2Proof/Word.lean ====
section
/-! DEFINITION. The widths of the hardware's cells and fields (00_scope.md R5, 30_encoding.md R70). -/

namespace Sys2Proof

/-- A 4-bit field: a register index X or Y, or the immediate N (R70). -/
abbrev Nib := BitVec 4

/-- One byte: a general register, a timer, a memory byte, the immediate NN (R20, R27, R28, R70). -/
abbrev Byte := BitVec 8

/-- The 12-bit address immediate NNN (R70). -/
abbrev Addr12 := BitVec 12

/-- A 16-bit cell: `pc`, `I`, a stack entry, an instruction word (R22, R25, R26, R72). -/
abbrev Word16 := BitVec 16

end Sys2Proof
end

