-- ==== Sys2Proof/Syntax.lean ====
section
/-! DEFINITION. The instructions: one constructor per row of spec/opcode_table.json (30_encoding.md R84),
with the operand fields of R70. A field the hardware ignores (R78) is kept, so that a word and its
instruction say the same (assumption log 9). -/

namespace Sys2Proof

/-- The 35 instruction classes of 30_encoding.md R84. -/
inductive Instr where
  /-- `00E0` CLS, R190. -/
  | cls
  /-- `00EE` RET, R102. -/
  | ret
  /-- `0NNN` SYS, R101: the placeholder, for NNN neither 0x0E0 nor 0x0EE. -/
  | sys (nnn : Addr12)
  /-- `1NNN` JP, R103. -/
  | jp (nnn : Addr12)
  /-- `2NNN` CALL, R104. -/
  | call (nnn : Addr12)
  /-- `3XNN` SE Vx, NN, R120. -/
  | seImm (x : Nib) (nn : Byte)
  /-- `4XNN` SNE Vx, NN, R121. -/
  | sneImm (x : Nib) (nn : Byte)
  /-- `5XYN` SE Vx, Vy, R122; the low nibble `n` is ignored (R78). -/
  | seReg (x y n : Nib)
  /-- `6XNN` LD Vx, NN, R140. -/
  | ldImm (x : Nib) (nn : Byte)
  /-- `7XNN` ADD Vx, NN, R141. -/
  | addImm (x : Nib) (nn : Byte)
  /-- `8XY0` LD Vx, Vy, R142. -/
  | ldReg (x y : Nib)
  /-- `8XY1` OR, R143. -/
  | or (x y : Nib)
  /-- `8XY2` AND, R144. -/
  | and (x y : Nib)
  /-- `8XY3` XOR, R145. -/
  | xor (x y : Nib)
  /-- `8XY4` ADD Vx, Vy, R146. -/
  | addReg (x y : Nib)
  /-- `8XY5` SUB, R147. -/
  | sub (x y : Nib)
  /-- `8XY6` SHR Vx, R148; `y` is ignored (R78). -/
  | shr (x y : Nib)
  /-- `8XY7` SUBN, R149. -/
  | subn (x y : Nib)
  /-- `8XYE` SHL Vx, R150; `y` is ignored (R78). -/
  | shl (x y : Nib)
  /-- `9XYN` SNE Vx, Vy, R123; the low nibble `n` is ignored (R78). -/
  | sneReg (x y n : Nib)
  /-- `ANNN` LD I, R170. -/
  | ldI (nnn : Addr12)
  /-- `BNNN` JP V0, R105. -/
  | jpV0 (nnn : Addr12)
  /-- `CXNN` RND, R151. -/
  | rnd (x : Nib) (nn : Byte)
  /-- `DXYN` DRW, R191. -/
  | drw (x y n : Nib)
  /-- `EX9E` SKP, R124. -/
  | skp (x : Nib)
  /-- `EXA1` SKNP, R125. -/
  | sknp (x : Nib)
  /-- `FX07` LD Vx, DT, R200. -/
  | ldVxDt (x : Nib)
  /-- `FX0A` LD Vx, K, R201. -/
  | ldVxK (x : Nib)
  /-- `FX15` LD DT, Vx, R202. -/
  | ldDtVx (x : Nib)
  /-- `FX18` LD ST, Vx, R203. -/
  | ldStVx (x : Nib)
  /-- `FX1E` ADD I, Vx, R171. -/
  | addI (x : Nib)
  /-- `FX29` LD F, Vx, R172. -/
  | ldF (x : Nib)
  /-- `FX33` LD B, Vx, R173. -/
  | ldB (x : Nib)
  /-- `FX55` LD [I], Vx, R174. -/
  | ldMemVx (x : Nib)
  /-- `FX65` LD Vx, [I], R175. -/
  | ldVxMem (x : Nib)
  deriving DecidableEq, Repr

end Sys2Proof
end

