-- ==== Sys2Proof/Config.lean ====
section
/-! DEFINITION. The open parameters of 00_scope.md R6 and the free values behind them.
The defaults stand in Machine/Defaults.lean. -/

namespace Sys2Proof

/-- DRAW_EDGE (R6, 44_display.md R191): what `DXYN` does with a sprite bit outside the 64x32 grid. -/
inductive DrawEdge where
  /-- Columns modulo 64 and rows modulo 32, pixel by pixel. -/
  | wrap
  /-- A bit outside the grid is discarded: it neither draws nor collides. -/
  | clip
  /-- A 1 bit outside the grid fails the instruction with `DrawOutOfBounds`. -/
  | reject
  deriving DecidableEq, Repr

/-- KEY_SELECT (R6, 45_timers_keys.md R201): which pressed code `FX0A` stores when keys are down. -/
inductive KeySelect where
  /-- The default of decision D10: the lowest pressed code. -/
  | lowest
  /-- Any other function: `Config.keyChoice n`, of which nothing is known (assumption log 7). -/
  | unspecified (n : Nat)
  deriving DecidableEq, Repr

/-- The configuration of one block, fixed for the machine (00_scope.md R12: "Not state, but configuration").
It is held in `Machine.State` as plain data that no step writes (assumption log 4). -/
structure Config where
  /-- FONT: the 80 bytes that memory holds at 0x000 to 0x04F after reset (R30, R31). -/
  font : Vector Byte 80
  /-- DRAW_EDGE. -/
  drawEdge : DrawEdge
  /-- KEY_SELECT. -/
  keySelect : KeySelect
  deriving DecidableEq, Repr

/-- FREE VALUE (42_load_arith_logic.md R151, decision D11): the `n`-th byte the host supplies as `rand`.
No body: "any of the 256 values each time, under no law" (assumption log 3). -/
opaque Config.randByte : Nat → Byte

/-- FREE VALUE (45_timers_keys.md R201, decision D10): the code a KEY_SELECT other than the default prefers,
for the key cells it is given. No body (assumption log 7). -/
opaque Config.keyChoice : Nat → Vector Bool 16 → Nib

end Sys2Proof
end

