-- ==== Sys2Proof/Machine/Defaults.lean ====
section
/-! DEFINITION. The defaults of the open parameters (00_scope.md R6), with which the machine leaves reset. -/

namespace Sys2Proof.Machine

/-- The default FONT, the table of 10_state.md R31, glyph by glyph from 0x000.
PRESUMED: the spec marks these bytes "from general knowledge, not in source" (assumption log 5). -/
def defaultFont : Vector Byte 80 :=
  #v[0xF0, 0x90, 0x90, 0x90, 0xF0,
     0x20, 0x60, 0x20, 0x20, 0x70,
     0xF0, 0x10, 0xF0, 0x80, 0xF0,
     0xF0, 0x10, 0xF0, 0x10, 0xF0,
     0x90, 0x90, 0xF0, 0x10, 0x10,
     0xF0, 0x80, 0xF0, 0x10, 0xF0,
     0xF0, 0x80, 0xF0, 0x90, 0xF0,
     0xF0, 0x10, 0x20, 0x40, 0x40,
     0xF0, 0x90, 0xF0, 0x90, 0xF0,
     0xF0, 0x90, 0xF0, 0x10, 0xF0,
     0xF0, 0x90, 0xF0, 0x90, 0x90,
     0xE0, 0x90, 0xE0, 0x90, 0xE0,
     0xF0, 0x80, 0x80, 0x80, 0xF0,
     0xE0, 0x90, 0x90, 0x90, 0xE0,
     0xF0, 0x80, 0xF0, 0x80, 0xF0,
     0xF0, 0x80, 0xF0, 0x80, 0x80]

/-- The default DRAW_EDGE (decision D5). DESIGN CHOICE, the spec's (assumption log 6). -/
def defaultDrawEdge : DrawEdge := .wrap

/-- The default KEY_SELECT (decision D10). DESIGN CHOICE, the spec's (assumption log 7). -/
def defaultKeySelect : KeySelect := .lowest

/-- The configuration whose every open parameter has the spec's default. -/
def defaultConfig : Config :=
  { font := defaultFont, drawEdge := defaultDrawEdge, keySelect := defaultKeySelect }

end Sys2Proof.Machine
end

