-- ==== Sys2Proof/Machine/State.lean ====
section
/-! DEFINITION. The state of the machine as plain data (10_state.md), and the state after reset (R36). -/

namespace Sys2Proof.Machine

/-- A failure of a cycle (60_exceptions.md R232). Not a `Fault`: the engine goes on after it (R222, R234). -/
inductive Failure where
  /-- R223: raised by the decoder. -/
  | codeNotRecognised (word : Word16)
  /-- R224: raised by SYS. -/
  | codeNotImplemented (word : Word16)
  /-- R225: raised by the fetch and by `DXYN`, `FX33`, `FX55`, `FX65`; `addr` is the lowest offending address. -/
  | addressOutOfRange (addr : Nat)
  /-- R226: raised by `2NNN`. -/
  | stackOverflow
  /-- R227: raised by `00EE`. -/
  | stackUnderflow
  /-- R228: raised by `EX9E` and `EXA1`. -/
  | keyOutOfRange (k : Byte)
  /-- R229: raised by `DXYN` under DRAW_EDGE = reject. -/
  | drawOutOfBounds (x0 y0 : Byte) (n : Nib)
  deriving DecidableEq, Repr

/-- The result of a cycle (R232). -/
inductive CycleResult where
  | ok
  | failed (f : Failure)
  deriving DecidableEq, Repr

/-- Memory: the cells that differ from the reset contents, addresses strictly rising (R28; assumption log 10). -/
abbrev Memory := List Host.Cell

/-- The display: `D[x][y]`, column x first (R32). -/
abbrev Display := Vector (Vector Bool 32) 64

/-- The key cells `K[0]` to `K[15]` (R33). -/
abbrev Keys := Vector Bool 16

/-- The state. The first nine fields are the spec's whole state (10_state.md: V, pc, I, STK, DT, ST, Mem, D, K);
the last five are the model's own places for a cycle's input, outputs and configuration (assumption log 2, 3, 4). -/
structure State where
  /-- General registers V0 to VF (R20); VF is `v[15]` (R21). -/
  v : Vector Byte 16
  /-- Program counter (R22). -/
  pc : Word16
  /-- Index register I (R25). -/
  i : Word16
  /-- The return stack STK, the top last (R26). -/
  stk : List Word16
  /-- Delay timer DT (R27). -/
  dt : Byte
  /-- Sound timer ST (R27). -/
  st : Byte
  /-- Mem (R28). -/
  mem : Memory
  /-- The display D (R32). -/
  d : Display
  /-- The key cells K (R33). -/
  k : Keys
  /-- INPUT: the byte `rand` of the coming cycle (R220, R241). -/
  rand : Byte
  /-- How many bytes of the free input have been taken; the model's own counter (assumption log 3). -/
  draws : Nat
  /-- OUTPUT: the result of the last cycle (R220, R232). -/
  result : CycleResult
  /-- OUTPUT: the tone trigger of the last cycle (R237). -/
  tone : Bool
  /-- The open parameters (R6), which nothing writes (assumption log 4). -/
  config : Config
  deriving DecidableEq, Repr

/-- Why the machine stops for good: never. The engine has no halted state (70_reset_and_hazards.md R276) and every
failure of a cycle is a next state that records it (60_exceptions.md R222, R234), so no meaning raises a fault and
the type has no constructor (assumption log 30). -/
inductive Fault where
  deriving DecidableEq, Repr

/-- Why an instruction is given no meaning. -/
inductive Refusal where
  /-- Raised by an arm of `exec` whose instruction has no meaning yet: none is left. Safe. -/
  | notModelled (mnemonic : String)
  deriving DecidableEq, Repr

/-- What an instruction's meaning answers. -/
abbrev Outcome := Host.Outcome State Fault Refusal

/-- The reset state of a block with configuration `c` (R36): memory lists nothing, so it holds FONT and zeros. -/
def State.resetWith (c : Config) : State :=
  { v := Vector.replicate 16 0x00#8
    pc := 0x0200#16
    i := 0x0000#16
    stk := []
    dt := 0x00#8
    st := 0x00#8
    mem := []
    d := Vector.replicate 64 (Vector.replicate 32 false)
    k := Vector.replicate 16 false
    rand := Config.randByte 0
    draws := 1
    result := .ok
    tone := false
    config := c }

/-- The machine right after reset (R36, R260, R261), with the spec's defaults for the open parameters (R6). -/
def State.reset : State := State.resetWith defaultConfig

end Sys2Proof.Machine
end

