-- ==== Sys2Proof/Machine/Ops.lean ====
section
/-! DEFINITION. The named operations over memory, registers, stack and display, and the taking of a failure
(20_memory.md, 00_scope.md R9, 60_exceptions.md R222). -/

namespace Sys2Proof.Machine

/-! ### Memory as a canonical list (R28) -/

/-- What an address that memory does not list reads as: its reset value, FONT below 0x050 and 0x00 above (R28, R36). -/
def unlistedByte (font : Vector Byte 80) (a : Nat) : Byte :=
  if h : a < 80 then font[a] else 0x00#8

/-- The listed byte at an address. -/
def Memory.lookup : Memory → Nat → Option Byte
  | [], _ => none
  | (b, w) :: m, a => if a = b then some w else Memory.lookup m a

/-- The list with an entry for an address, in its place. -/
def Memory.place : Memory → Nat → Byte → Memory
  | [], a, w => [(a, w)]
  | (b, u) :: m, a, w =>
    if a < b then (a, w) :: (b, u) :: m
    else if a = b then (a, w) :: m
    else (b, u) :: Memory.place m a w

/-- The list without the entries for an address. -/
def Memory.remove : Memory → Nat → Memory
  | [], _ => []
  | (b, u) :: m, a => if a = b then Memory.remove m a else (b, u) :: Memory.remove m a

/-- `Mem[a]`. -/
def Memory.byte (font : Vector Byte 80) (m : Memory) (a : Nat) : Byte :=
  (Memory.lookup m a).getD (unlistedByte font a)

/-- `Mem[a] <- w`, keeping the canonical form: writing what an unlisted address reads as removes the entry. -/
def Memory.put (font : Vector Byte 80) (m : Memory) (a : Nat) (w : Byte) : Memory :=
  if w = unlistedByte font a then Memory.remove m a else Memory.place m a w

/-- The canonical form: addresses strictly rising, within 0x000 to 0xFFF (R50), none listed with its reset value. -/
abbrev Memory.wf (font : Vector Byte 80) (m : Memory) : Prop :=
  m.Pairwise (fun c e => c.1 < e.1) ∧ ∀ c ∈ m, c.1 < 4096 ∧ c.2 ≠ unlistedByte font c.1

/-! ### Registers and other cells -/

/-- `V[x]` (R20): every index a field can form is valid. -/
def State.reg (s : State) (x : Nib) : Byte := s.v[x.toNat]'x.isLt

/-- `V[x] <- b` (R20): no register is hardwired. -/
def State.setReg (s : State) (x : Nib) (b : Byte) : State := { s with v := s.v.set x.toNat b x.isLt }

/-- The index of VF (R21). -/
def vf : Nib := 0xF#4

/-- `pc <- w`. -/
def State.setPc (s : State) (w : Word16) : State := { s with pc := w }
/-- `I <- w`. -/
def State.setI (s : State) (w : Word16) : State := { s with i := w }
/-- The stack replaced. -/
def State.setStk (s : State) (l : List Word16) : State := { s with stk := l }
/-- `DT <- b`. -/
def State.setDt (s : State) (b : Byte) : State := { s with dt := b }
/-- `ST <- b`. -/
def State.setSt (s : State) (b : Byte) : State := { s with st := b }
/-- Memory replaced. -/
def State.setMem (s : State) (m : Memory) : State := { s with mem := m }
/-- The display replaced. -/
def State.setDisplay (s : State) (d : Display) : State := { s with d := d }
/-- The key cells replaced; only the host does so (R33). -/
def State.setKeys (s : State) (k : Keys) : State := { s with k := k }
/-- The input byte of the coming cycle, as the host supplies it (R241). -/
def State.setRand (s : State) (b : Byte) : State := { s with rand := b }
/-- The result of the cycle (R232). -/
def State.setResult (s : State) (r : CycleResult) : State := { s with result := r }
/-- The tone trigger of the cycle (R237). -/
def State.setTone (s : State) (b : Bool) : State := { s with tone := b }

/-- `pc <- (pc + 2) mod 65536`, the default advance (R23, R100; the wrap is decision D8). -/
def State.advance (s : State) : State := s.setPc (s.pc + 2#16)

/-- `pc <- (pc + 4) mod 65536` when the condition holds, else the default advance (R126). -/
def State.skipIf (c : Bool) (s : State) : State := if c then s.setPc (s.pc + 4#16) else s.advance

/-! ### Memory accesses of the machine (R9, R52, R54) -/

/-- `Mem[a]` as a total function of the state; an access of the machine goes through `memRead`. -/
def State.byteAt (s : State) (a : Nat) : Byte := Memory.byte s.config.font s.mem a

/-- `Mem[a] <- w` with no range test; `storeBytes` is used only behind `checkSpan`. -/
def State.putByte (s : State) (a : Nat) (w : Byte) : State := s.setMem (Memory.put s.config.font s.mem a w)

/-- `MemRead(addr, 1)` (R9): an address above 0xFFF raises `AddressOutOfRange(addr)`. -/
def State.memRead (s : State) (a : Nat) : Except Failure Byte :=
  if a ≤ 0xFFF then .ok (s.byteAt a) else .error (.addressOutOfRange a)

/-- The test of `count` consecutive addresses from `base` before anything is written (R54): the failure names the
lowest offending address. No address, no failure. -/
def checkSpan (base count : Nat) : Except Failure Unit :=
  if 0 < count ∧ 0xFFF < base + count - 1 then .error (.addressOutOfRange (max base 0x1000)) else .ok ()

/-- The bytes at `count` consecutive addresses from `base`, ascending. -/
def State.loadBytes (s : State) (base count : Nat) : List Byte :=
  (List.range count).map fun j => s.byteAt (base + j)

/-- `Mem[base + j] <- l[j]`, ascending (R52). -/
def State.storeBytes (base : Nat) : List Byte → State → State
  | [], s => s
  | w :: l, s => State.storeBytes (base + 1) l (s.putByte base w)

/-- `V[j] <- f j` for `j` below `count`, ascending. -/
def State.setRegs (count : Nat) (f : Nat → Byte) (s : State) : State :=
  (List.range count).foldl (fun t j => t.setReg (BitVec.ofNat 4 j) (f j)) s

/-! ### The stack (R26) -/

/-- `push(STK, w)`: at depth 16 it raises `StackOverflow` (R226). -/
def State.push (s : State) (w : Word16) : Except Failure State :=
  if s.stk.length < 16 then .ok (s.setStk (s.stk ++ [w])) else .error .stackOverflow

/-- `pop(STK)`: the last entry and the state without it; at depth 0 it raises `StackUnderflow` (R227). -/
def State.pop (s : State) : Except Failure (Word16 × State) :=
  match s.stk.getLast? with
  | some w => .ok (w, s.setStk s.stk.dropLast)
  | none => .error .stackUnderflow

/-! ### The display (R32) -/

/-- `D[x][y]`. -/
def State.pixel (s : State) (x : Fin 64) (y : Fin 32) : Bool := s.d[x][y]

/-- `D[x][y] <- D[x][y] ^ 1`. -/
def Display.toggle (d : Display) (x : Fin 64) (y : Fin 32) : Display :=
  d.set x (d[x].set y (!d[x][y]))

/-- The display with every pixel 0. -/
def Display.blank : Display := Vector.replicate 64 (Vector.replicate 32 false)

/-! ### Results of an instruction, and the taking of a failure (R220 step 4, R222) -/

/-- TAKING A FAILURE (R222): every write of the cycle is discarded, pc still addresses the failing instruction, and
the failure is the cycle's result. Nothing is saved anywhere and control goes nowhere; the timer step of the same
cycle follows (`State.endCycle`). There is no return from a failure (R234). -/
def State.takeFailure (s : State) (f : Failure) : Outcome := .next (s.setResult (.failed f))

/-- An instruction that completes in state `t`: the result is `Ok` (R220). -/
def State.complete (t : State) : Outcome := .next (t.setResult .ok)

/-- The end of the execute step (R220 step 4): a raised failure is taken from the state `s` in which the instruction
began, otherwise its writes stand. -/
def State.finish (s : State) (r : Except Failure State) : Outcome :=
  match r with
  | .ok t => t.complete
  | .error f => s.takeFailure f

end Sys2Proof.Machine
end

