-- ==== Sys2Proof/Machine/Cycle.lean ====
section
/-! DEFINITION. What a cycle does around the execute step (60_exceptions.md R220): the fetch and decode before it, the
timer step and the next input after it; and the placing of an instruction for a fetch. -/

namespace Sys2Proof.Machine

/-- The fetch (R221, 20_memory.md R51): `MemRead(pc)` is the high byte and `MemRead(pc + 1)` the low one, pc + 1 not
reduced; pc is not changed. -/
def State.fetchWord (s : State) : Except Failure Word16 :=
  match s.memRead s.pc.toNat with
  | .error f => .error f
  | .ok hi =>
    match s.memRead (s.pc.toNat + 1) with
    | .error f => .error f
    | .ok lo => .ok (wordOfBytes hi lo)

/-- The decode step's failure (R223). A fetched word is never truncated. -/
def decodeFailure (w : Word16) : DecodeError → Failure
  | .codeNotRecognised word => .codeNotRecognised word
  | .truncated => .codeNotRecognised w

/-- Steps 1 and 2 of R220: the instruction at pc, or the first failure in the order of R231. -/
def State.fetchInstr (s : State) : Except Failure Instr :=
  match s.fetchWord with
  | .error f => .error f
  | .ok w =>
    match decodeWord w with
    | .ok i => .ok i
    | .error e => .error (decodeFailure w e)

/-- A timer's decrement, floor 0 (R236, 10_state.md R27). -/
def countDown (b : Byte) : Byte := if 0 < b.toNat then b - 1#8 else b

/-- The timer step (R236, R237): tone is whether ST is 1 before it. -/
def State.timerStep (s : State) : State :=
  ((s.setTone (s.st == 1#8)).setDt (countDown s.dt)).setSt (countDown s.st)

/-- The input byte of the next cycle: the next byte of the free input (assumption log 3). -/
def State.nextInput (s : State) : State :=
  { s.setRand (Config.randByte s.draws) with draws := s.draws + 1 }

/-- What follows the execute step in every cycle, failed or not: step 5 of R220, then the next input. -/
def State.endCycle (s : State) : State := s.timerStep.nextInput

/-- The end of the cycle applied to what the execute step answered. -/
def endOutcome (o : Outcome) : Outcome :=
  match o with
  | .next t => .next t.endCycle
  | .fault r => .fault r
  | .refused r => .refused r

/-- The two bytes of a word stored at pc and pc + 1, where the fetch reads them (R51); nothing where pc + 1 lies above
0xFFF, since no instruction can be fetched there (R221). -/
def State.placeWord (s : State) (w : Word16) : State :=
  if s.pc.toNat + 1 ≤ 0xFFF then s.storeBytes s.pc.toNat (bytesOfWord w) else s

end Sys2Proof.Machine
end

