-- ==== Sys2Proof/Machine/Operands.lean ====
section
/-! DEFINITION. The operand forms: immediates (30_encoding.md R85), the one addressing mode (43_index_memory.md
R176), key codes (R124, R201) and decimal digits (R173). Every operand is read from the state in which the
instruction begins (00_scope.md R10). -/

namespace Sys2Proof.Machine

/-- NNN zero-extended to 16 bits (R85). -/
def addrOperand (nnn : Addr12) : Word16 := nnn.setWidth 16

/-- A byte zero-extended to 16 bits. -/
def wideByte (b : Byte) : Word16 := b.setWidth 16

/-- I as the integer base address of R176: `I + offset` is never reduced. -/
def State.base (s : State) : Nat := s.i.toNat

/-- The bytes `Mem[I .. I + count - 1]`, or the failure of R54. -/
def State.readSpan (s : State) (count : Nat) : Except Failure (List Byte) :=
  match checkSpan s.base count with
  | .ok _ => .ok (s.loadBytes s.base count)
  | .error f => .error f

/-- `Mem[I + j] <- l[j]`, or the failure of R54 with no byte written. -/
def State.writeSpan (s : State) (l : List Byte) : Except Failure State :=
  match checkSpan s.base l.length with
  | .ok _ => .ok (s.storeBytes s.base l)
  | .error f => .error f

/-- V[0] to V[X], ascending (R174). -/
def State.regsUpTo (s : State) (x : Nib) : List Byte :=
  (List.range (x.toNat + 1)).map fun j => s.reg (BitVec.ofNat 4 j)

/-- Hundreds, tens and units of a byte, a whole byte each (R173). -/
def decimalDigits (b : Byte) : List Byte :=
  [BitVec.ofNat 8 (b.toNat / 100), BitVec.ofNat 8 (b.toNat / 10 % 10), BitVec.ofNat 8 (b.toNat % 10)]

/-- The key cell that V[x] names, or `KeyOutOfRange` (R124, R125, R228). -/
def State.keyOperand (s : State) (x : Nib) : Except Failure Bool :=
  if h : (s.reg x).toNat < 16 then .ok (s.k[(s.reg x).toNat]) else .error (.keyOutOfRange (s.reg x))

/-- `K[c]`. -/
def Keys.pressed (k : Keys) (c : Nib) : Bool := k[c.toNat]'c.isLt

/-- The lowest pressed code among `c, c + 1, ..` (fuel many codes). -/
def Keys.lowestFrom (k : Keys) : Nat → Nat → Option Nib
  | 0, _ => none
  | fuel + 1, c =>
    if Keys.pressed k (BitVec.ofNat 4 c) then some (BitVec.ofNat 4 c) else Keys.lowestFrom k fuel (c + 1)

/-- The lowest pressed code, none when no key is down (R201). -/
def Keys.lowest (k : Keys) : Option Nib := Keys.lowestFrom k 16 0

/-- KEY_SELECT(K) (R201, decision D10): a pressed code, none when no key is down. A choice that is no pressed code
is no KEY_SELECT, and the default stands in for it. -/
def selectKey (sel : KeySelect) (k : Keys) : Option Nib :=
  match sel with
  | .lowest => Keys.lowest k
  | .unspecified n =>
    if Keys.pressed k (Config.keyChoice n k) then some (Config.keyChoice n k) else Keys.lowest k

end Sys2Proof.Machine
end

