-- ==== Sys2Proof/Machine/ControlFlow.lean ====
section
/-! DEFINITION. Control transfer (40_control_flow.md): SYS, RET, JP, CALL, JP V0. Each writes pc itself; no
implicit advance is added (R100). -/

namespace Sys2Proof.Machine

/-- `0NNN` (R101): the placeholder always raises `CodeNotImplemented(word)`. -/
def execSys (nnn : Addr12) (s : State) : Outcome := s.takeFailure (.codeNotImplemented (addrOperand nnn))

/-- `00EE` (R102): `StackUnderflow` at depth 0, else pc is the popped entry as it stands. -/
def execRet (s : State) : Outcome :=
  s.finish (match s.pop with
    | .ok (w, t) => .ok (t.setPc w)
    | .error f => .error f)

/-- `1NNN` (R103). -/
def execJp (nnn : Addr12) (s : State) : Outcome := (s.setPc (addrOperand nnn)).complete

/-- `2NNN` (R104): the pushed value is pc + 2, the address after the call (decision D1). -/
def execCall (nnn : Addr12) (s : State) : Outcome :=
  s.finish (match s.push (s.pc + 2#16) with
    | .ok t => .ok (t.setPc (addrOperand nnn))
    | .error f => .error f)

/-- `BNNN` (R105): NNN + V[0], not reduced to 12 bits. -/
def execJpV0 (nnn : Addr12) (s : State) : Outcome :=
  (s.setPc (addrOperand nnn + wideByte (s.reg 0x0#4))).complete

end Sys2Proof.Machine
end

