-- ==== Sys2Proof/Machine/Flags.lean ====
section
/-! DEFINITION. The values written to VF as a flag, always 0 or 1 (10_state.md R21), and the results they go with
(42_load_arith_logic.md R146 to R150, R152). Sums and differences are computed exactly and narrowed at the end. -/

namespace Sys2Proof.Machine

/-- A condition as the byte a flag write stores (R21). -/
def flagByte (c : Bool) : Byte := if c then 0x01#8 else 0x00#8

/-- `(a + b) mod 256` (R152). -/
def sumByte (a b : Byte) : Byte := BitVec.ofNat 8 (a.toNat + b.toNat)

/-- The carry of R146: 1 when the sum is above 255. -/
def carryFlag (a b : Byte) : Byte := flagByte (decide (255 < a.toNat + b.toNat))

/-- `(a - b) mod 256`: a - b when a >= b, a - b + 256 otherwise (R152). -/
def diffByte (a b : Byte) : Byte := BitVec.ofNat 8 (a.toNat + 256 - b.toNat)

/-- The flag of R147 and R149: 1 when the minuend is STRICTLY above the subtrahend, so 0 when they are equal. -/
def greaterFlag (a b : Byte) : Byte := flagByte (decide (b.toNat < a.toNat))

/-- `a >> 1`, bit 7 of the result 0 (R148). -/
def shiftRightByte (a : Byte) : Byte := BitVec.ofNat 8 (a.toNat / 2)

/-- The bit that R148 shifts out: bit 0. -/
def lowBitFlag (a : Byte) : Byte := flagByte (a.getLsbD 0)

/-- `(a << 1) mod 256` (R150). -/
def shiftLeftByte (a : Byte) : Byte := BitVec.ofNat 8 (a.toNat * 2)

/-- The bit that R150 shifts out: bit 7. -/
def highBitFlag (a : Byte) : Byte := flagByte (a.getLsbD 7)

/-- Result first, flag second: the order of R146. With X = 0xF the flag remains (R10). -/
def State.setResultThenFlag (s : State) (x : Nib) (r flag : Byte) : State := (s.setReg x r).setReg vf flag

/-- Flag first, result second: the order of R147 to R150. With X = 0xF the result remains (R10). -/
def State.setFlagThenResult (s : State) (x : Nib) (flag r : Byte) : State := (s.setReg vf flag).setReg x r

end Sys2Proof.Machine
end

