-- ==== Sys2Proof/Machine/Display.lean ====
section
/-! DEFINITION. Display instructions (44_display.md): CLS and DRW. -/

namespace Sys2Proof.Machine

/-- `00E0` (R190): every pixel 0; VF unchanged. -/
def execCls (s : State) : Outcome := (s.setDisplay Display.blank).advance.complete

/-- The columns and rows, not yet reduced, of one sprite row's 1 bits; column 0 is bit 7 of the byte (R191). -/
def rowBits (x0 y : Nat) (b : Byte) : List (Nat × Nat) :=
  (List.range 8).filterMap fun c => if b.getLsbD (7 - c) then some (x0 + c, y) else none

/-- The same for the whole sprite, rows ascending from row `y` (R191). -/
def spriteBits (x0 : Nat) : Nat → List Byte → List (Nat × Nat)
  | _, [] => []
  | y, b :: l => rowBits x0 y b ++ spriteBits x0 (y + 1) l

/-- Where a sprite bit lands under an edge policy, none where it is discarded (R191). -/
def lands (edge : DrawEdge) (px py : Nat) : Option (Fin 64 × Fin 32) :=
  match edge with
  | .wrap => some (Fin.ofNat 64 px, Fin.ofNat 32 py)
  | .clip | .reject => if h : px < 64 ∧ py < 32 then some (⟨px, h.1⟩, ⟨py, h.2⟩) else none

/-- One 1 bit: `hit` when the pixel was set, then the pixel toggled (R191). -/
def drawBit (edge : DrawEdge) (a : Display × Bool) (p : Nat × Nat) : Display × Bool :=
  match lands edge p.1 p.2 with
  | some (px, py) => (Display.toggle a.1 px py, a.2 || a.1[px][py])
  | none => a

/-- All 1 bits in order, from `hit = 0` (R191). -/
def drawBits (edge : DrawEdge) (d : Display) (bits : List (Nat × Nat)) : Display × Bool :=
  bits.foldl (drawBit edge) (d, false)

/-- Whether DRAW_EDGE is `reject` and a 1 bit lies outside the grid (R191, R229). -/
def rejects (edge : DrawEdge) (bits : List (Nat × Nat)) : Bool :=
  edge == .reject && bits.any fun p => decide (63 < p.1) || decide (31 < p.2)

/-- `DXYN` (R191): the address check precedes the edge check (R231); both precede any write. -/
def execDrw (x y n : Nib) (s : State) : Outcome :=
  s.finish (match s.readSpan n.toNat with
    | .error f => .error f
    | .ok rows =>
      let bits := spriteBits (s.reg x).toNat (s.reg y).toNat rows
      if rejects s.config.drawEdge bits then .error (.drawOutOfBounds (s.reg x) (s.reg y) n)
      else
        let drawn := drawBits s.config.drawEdge s.d bits
        .ok ((s.setDisplay drawn.1).setReg vf (flagByte drawn.2)).advance)

end Sys2Proof.Machine
end

