-- ==== Sys2Proof/Machine/IndexMemory.lean ====
section
/-! DEFINITION. Index register and memory (43_index_memory.md). No load or store changes I (R176). -/

namespace Sys2Proof.Machine

/-- `ANNN` (R170). -/
def execLdI (nnn : Addr12) (s : State) : Outcome := (s.setI (addrOperand nnn)).advance.complete

/-- `FX1E` (R171): modulo 65536, VF unchanged. -/
def execAddI (x : Nib) (s : State) : Outcome := (s.setI (s.i + wideByte (s.reg x))).advance.complete

/-- `FX29` (R172): the whole byte times 5. -/
def execLdF (x : Nib) (s : State) : Outcome := (s.setI (wideByte (s.reg x) * 5#16)).advance.complete

/-- `FX33` (R173): hundreds, tens, units at I, I + 1, I + 2. -/
def execLdB (x : Nib) (s : State) : Outcome :=
  s.finish (match s.writeSpan (decimalDigits (s.reg x)) with
    | .ok t => .ok t.advance
    | .error f => .error f)

/-- `FX55` (R174): V[0] to V[X] inclusive at I upward. -/
def execLdMemVx (x : Nib) (s : State) : Outcome :=
  s.finish (match s.writeSpan (s.regsUpTo x) with
    | .ok t => .ok t.advance
    | .error f => .error f)

/-- `FX65` (R175): V[0] to V[X] inclusive from I upward. -/
def execLdVxMem (x : Nib) (s : State) : Outcome :=
  s.finish (match checkSpan s.base (x.toNat + 1) with
    | .ok _ => .ok (s.setRegs (x.toNat + 1) (fun j => s.byteAt (s.base + j))).advance
    | .error f => .error f)

end Sys2Proof.Machine
end

