-- ==== Sys2Proof/Machine/LoadArithLogic.lean ====
section
/-! DEFINITION. Register load, arithmetic, logic, shift and random (42_load_arith_logic.md). The operands a = V[X]
and b = V[Y] are those of the state in which the instruction begins (00_scope.md R10, decision D6). -/

namespace Sys2Proof.Machine

/-- `6XNN` (R140). -/
def execLdImm (x : Nib) (nn : Byte) (s : State) : Outcome := (s.setReg x nn).advance.complete

/-- `7XNN` (R141): no flag. -/
def execAddImm (x : Nib) (nn : Byte) (s : State) : Outcome :=
  (s.setReg x (sumByte (s.reg x) nn)).advance.complete

/-- `8XY0` (R142). -/
def execLdReg (x y : Nib) (s : State) : Outcome := (s.setReg x (s.reg y)).advance.complete

/-- `8XY1` (R143): VF unchanged. -/
def execOr (x y : Nib) (s : State) : Outcome := (s.setReg x (s.reg x ||| s.reg y)).advance.complete

/-- `8XY2` (R144): VF unchanged. -/
def execAnd (x y : Nib) (s : State) : Outcome := (s.setReg x (s.reg x &&& s.reg y)).advance.complete

/-- `8XY3` (R145): VF unchanged. -/
def execXor (x y : Nib) (s : State) : Outcome := (s.setReg x (s.reg x ^^^ s.reg y)).advance.complete

/-- `8XY4` (R146): result first, carry second. -/
def execAddReg (x y : Nib) (s : State) : Outcome :=
  (s.setResultThenFlag x (sumByte (s.reg x) (s.reg y)) (carryFlag (s.reg x) (s.reg y))).advance.complete

/-- `8XY5` (R147): flag a > b first, a - b second. -/
def execSub (x y : Nib) (s : State) : Outcome :=
  (s.setFlagThenResult x (greaterFlag (s.reg x) (s.reg y)) (diffByte (s.reg x) (s.reg y))).advance.complete

/-- `8XY6` (R148): flag bit 0 first, shift second; Y is ignored. -/
def execShr (x : Nib) (s : State) : Outcome :=
  (s.setFlagThenResult x (lowBitFlag (s.reg x)) (shiftRightByte (s.reg x))).advance.complete

/-- `8XY7` (R149): flag b > a first, b - a second. -/
def execSubn (x y : Nib) (s : State) : Outcome :=
  (s.setFlagThenResult x (greaterFlag (s.reg y) (s.reg x)) (diffByte (s.reg y) (s.reg x))).advance.complete

/-- `8XYE` (R150): flag bit 7 first, shift second; Y is ignored. -/
def execShl (x : Nib) (s : State) : Outcome :=
  (s.setFlagThenResult x (highBitFlag (s.reg x)) (shiftLeftByte (s.reg x))).advance.complete

/-- `CXNN` (R151): the cycle's input byte, masked. -/
def execRnd (x : Nib) (nn : Byte) (s : State) : Outcome := (s.setReg x (s.rand &&& nn)).advance.complete

end Sys2Proof.Machine
end

