-- ==== Sys2Proof/Machine/Skips.lean ====
section
/-! DEFINITION. Conditional skips (41_skips.md R126): pc + 4 when the condition holds, else pc + 2. -/

namespace Sys2Proof.Machine

/-- `3XNN` (R120). -/
def execSeImm (x : Nib) (nn : Byte) (s : State) : Outcome := (s.skipIf (s.reg x == nn)).complete

/-- `4XNN` (R121). -/
def execSneImm (x : Nib) (nn : Byte) (s : State) : Outcome := (s.skipIf (s.reg x != nn)).complete

/-- `5XYN` (R122). -/
def execSeReg (x y : Nib) (s : State) : Outcome := (s.skipIf (s.reg x == s.reg y)).complete

/-- `9XYN` (R123). -/
def execSneReg (x y : Nib) (s : State) : Outcome := (s.skipIf (s.reg x != s.reg y)).complete

/-- `EX9E` (R124): skips when the key V[X] is down; `KeyOutOfRange` above 0xF. -/
def execSkp (x : Nib) (s : State) : Outcome :=
  s.finish (match s.keyOperand x with
    | .ok down => .ok (s.skipIf down)
    | .error f => .error f)

/-- `EXA1` (R125): skips when the key V[X] is up; `KeyOutOfRange` above 0xF. -/
def execSknp (x : Nib) (s : State) : Outcome :=
  s.finish (match s.keyOperand x with
    | .ok down => .ok (s.skipIf (!down))
    | .error f => .error f)

end Sys2Proof.Machine
end

