-- ==== Sys2Proof/Machine/TimersKeys.lean ====
section
/-! DEFINITION. Timer and key-wait instructions (45_timers_keys.md). The timer step is in Machine/Cycle.lean. -/

namespace Sys2Proof.Machine

/-- `FX07` (R200): DT as the previous cycle's timer step left it. -/
def execLdVxDt (x : Nib) (s : State) : Outcome := (s.setReg x s.dt).advance.complete

/-- `FX0A` (R201): no key down, no write at all, result `Ok`; else V[X] is KEY_SELECT(K). -/
def execLdVxK (x : Nib) (s : State) : Outcome :=
  match selectKey s.config.keySelect s.k with
  | none => s.complete
  | some c => (s.setReg x (c.setWidth 8)).advance.complete

/-- `FX15` (R202). -/
def execLdDtVx (x : Nib) (s : State) : Outcome := (s.setDt (s.reg x)).advance.complete

/-- `FX18` (R203). -/
def execLdStVx (x : Nib) (s : State) : Outcome := (s.setSt (s.reg x)).advance.complete

end Sys2Proof.Machine
end

