-- ==== Sys2Proof/Machine/Step.lean ====
section
/-! DEFINITION. The step of the machine: one `cycle` (60_exceptions.md R220). -/

namespace Sys2Proof.Machine

/-- One cycle: fetch, decode, execute, timer step. A failed fetch or decode is taken like a failed execute (R222). -/
def step (s : State) : Host.Outcome State Fault Refusal :=
  match s.fetchInstr with
  | .ok i => endOutcome (exec i s)
  | .error f => endOutcome (s.takeFailure f)

/-- The state with a table row's word where the next cycle fetches (assumption log 21). -/
def State.withFetchWord (s : State) (nbits w : Nat) : State := s.placeWord (tableWord nbits w)

end Sys2Proof.Machine
end

