-- ==== Sys2Proof/Machine/HostOps.lean ====
section
/-! DEFINITION. The host's operations between cycles (60_exceptions.md R240 to R246). -/

namespace Sys2Proof.Machine

/-- What `load` returns (R243, R230). -/
inductive LoadResult where
  | ok
  /-- R230: the image's size and the limit. -/
  | notEnoughMemory (size limit : Nat)
  deriving DecidableEq, Repr

/-- PROG_MAX (R5): the largest image, 4096 - 0x200 bytes. -/
def progMax : Nat := 3584

/-- `load(bytes)` (R243): at most 3584 bytes from 0x200 upward and nothing else; a longer image writes nothing. -/
def State.load (bytes : List Byte) (s : State) : LoadResult × State :=
  if progMax < bytes.length then (.notEnoughMemory bytes.length progMax, s)
  else (.ok, s.storeBytes 0x200 bytes)

/-- `setKey(k, b)` (R244). -/
def State.setKey (c : Nib) (b : Bool) (s : State) : State := s.setKeys (s.k.set c.toNat b c.isLt)

/-- `readDisplay()` (R245): the grid, nothing changed. -/
def State.readDisplay (s : State) : Display := s.d

/-- `reset()` (R242, R260): the reset state of this block, whose configuration stays. The free input goes on where it
was: a reset does not make `rand` repeat (decision D11, assumption log 3). No tone (R260). -/
def State.hostReset (s : State) : State :=
  { State.resetWith s.config with rand := s.rand, draws := s.draws }

/-- `cycle(rand)` (R241). -/
def State.cycle (rand : Byte) (s : State) : Outcome := step (s.setRand rand)

/-- A host operation that changes the state between two cycles (R240). -/
inductive HostAction where
  | reset
  | load (bytes : List Byte)
  | setKey (c : Nib) (b : Bool)
  deriving DecidableEq, Repr

/-- The state after a host operation. -/
def State.act (a : HostAction) (s : State) : State :=
  match a with
  | .reset => s.hostReset
  | .load bytes => (s.load bytes).2
  | .setKey c b => s.setKey c b

end Sys2Proof.Machine
end

