-- ==== Sys2Proof/Safety.lean ====
section
/-! DEFINITION. What a good state and a safe run are, and the vocabulary in which claims say what an instruction
leaves unchanged. -/

namespace Sys2Proof.Machine

/-! ### Invariants -/

/-- The state space of 10_state.md R37: memory in canonical form within 0x000 to 0xFFF, at most 16 stack entries.
Every other field has no illegal value. -/
def State.Inv (s : State) : Prop := Memory.wf s.config.font s.mem ∧ s.stk.length ≤ 16

/-- How far pc can go (10_state.md R23): at most 0x10FE, and no saved return address above 0x1000. -/
def State.PcInReach (s : State) : Prop := s.pc.toNat ≤ 0x10FE ∧ ∀ w ∈ s.stk, w.toNat ≤ 0x1000

/-! ### Safe runs -/

/-- The cycle from `s` ends with result `Ok` (70_reset_and_hazards.md R276: a failed cycle is a run gone wrong). -/
def State.CycleOk (s : State) : Prop := ∃ t, step s = .next t ∧ t.result = .ok

/-- `n` cycles in a row, each with result `Ok`. -/
def State.RunsOk : Nat → State → Prop
  | 0, _ => True
  | n + 1, s => ∃ t, step s = .next t ∧ t.result = .ok ∧ State.RunsOk n t

/-! ### Frames: what is the same in `s` before and `t` after -/

/-- Every general register outside `xs`, VF among them. -/
def KeepsRegsBut (xs : List Nib) (s t : State) : Prop := ∀ r, r ∉ xs → t.reg r = s.reg r

/-- Every byte of memory. -/
def KeepsMemory (s t : State) : Prop := ∀ a, t.byteAt a = s.byteAt a

/-- Every pixel. -/
def KeepsDisplay (s t : State) : Prop := ∀ x y, t.pixel x y = s.pixel x y

/-- DT and ST, of which the execute step leaves the counting to the timer step. -/
def KeepsTimers (s t : State) : Prop := t.dt = s.dt ∧ t.st = s.st

/-- What no instruction writes: the key cells, the input byte and its counter, the tone output, the configuration. -/
def KeepsHostSide (s t : State) : Prop :=
  t.k = s.k ∧ t.rand = s.rand ∧ t.draws = s.draws ∧ t.tone = s.tone ∧ t.config = s.config

/-- Everything but general registers, pc and the result. -/
def KeepsAllButRegs (s t : State) : Prop :=
  t.i = s.i ∧ t.stk = s.stk ∧ KeepsTimers s t ∧ KeepsMemory s t ∧ KeepsDisplay s t ∧ KeepsHostSide s t

/-- Everything but pc and the result. -/
def KeepsAllButPc (s t : State) : Prop := KeepsRegsBut [] s t ∧ KeepsAllButRegs s t

/-- Everything but the result: what a failure leaves (60_exceptions.md R222). -/
def KeepsAll (s t : State) : Prop := t.pc = s.pc ∧ KeepsAllButPc s t

/-! ### The sprite of DXYN, said pixel by pixel (44_display.md R191) -/

/-- Bit `c` (from the left) of sprite row `r` is 1. -/
def SpriteBit (s : State) (r c : Nat) : Prop := (s.byteAt (s.i.toNat + r)).getLsbD (7 - c) = true

/-- Some 1 bit of the sprite at (V[x], V[y]) of height n lands on pixel (px, py) under the edge policy. -/
def SpriteCovers (s : State) (x y n : Nib) (px : Fin 64) (py : Fin 32) : Prop :=
  ∃ r c : Nat, r < n.toNat ∧ c < 8 ∧ SpriteBit s r c ∧
    (if s.config.drawEdge = .wrap then
      ((s.reg x).toNat + c) % 64 = px.val ∧ ((s.reg y).toNat + r) % 32 = py.val
    else (s.reg x).toNat + c = px.val ∧ (s.reg y).toNat + r = py.val)

/-- Some 1 bit of the sprite lies outside the grid. -/
def SpriteLeavesGrid (s : State) (x y n : Nib) : Prop :=
  ∃ r c : Nat, r < n.toNat ∧ c < 8 ∧ SpriteBit s r c ∧
    (63 < (s.reg x).toNat + c ∨ 31 < (s.reg y).toNat + r)

end Sys2Proof.Machine
end

