-- ==== Sys2Proof/Certificates/Slice0/Obligations.lean ====
section
/-! DEFINITION. The statements for the provers, each from the numbered rules of spec/. Frames are said in the
vocabulary of Safety.lean; words are written as arithmetic on their fields, independently of the encoder. -/

open Sys2Proof Sys2Proof.Machine

/-! ### Encoding and decoding (30_encoding.md) -/

/-- Words written out from the spec's encodings decode to the instructions they stand for (95_test_vectors.md 2.1). -/
def Obligations.SampleWordsDecode : Prop :=
  decodeWord 0x00E0#16 = .ok .cls ∧ decodeWord 0x00EE#16 = .ok .ret ∧ decodeWord 0x00E1#16 = .ok (.sys 0x0E1#12) ∧
  decodeWord 0x1ABC#16 = .ok (.jp 0xABC#12) ∧ decodeWord 0x3A42#16 = .ok (.seImm 0xA#4 0x42#8) ∧
  decodeWord 0x8346#16 = .ok (.shr 0x3#4 0x4#4) ∧ decodeWord 0x8AB7#16 = .ok (.subn 0xA#4 0xB#4) ∧
  decodeWord 0x934F#16 = .ok (.sneReg 0x3#4 0x4#4 0xF#4) ∧ decodeWord 0xC30F#16 = .ok (.rnd 0x3#4 0x0F#8) ∧
  decodeWord 0xD012#16 = .ok (.drw 0x0#4 0x1#4 0x2#4) ∧ decodeWord 0xE29E#16 = .ok (.skp 0x2#4) ∧
  decodeWord 0xF265#16 = .ok (.ldVxMem 0x2#4) ∧ decodeWord 0xFFFF#16 = .error (.codeNotRecognised 0xFFFF#16)

/-- Decoding the word of a well-formed instruction gives it back, every operand at every value (R70, R71, R73 to R77).
-/
def Obligations.DecodeOfEncode : Prop :=
  ∀ i : Instr, i.wellFormed = true → decodeWord (encode i) = .ok i

/-- A word that decodes is the word of the instruction it decodes to, ignored fields included, and that instruction is
well-formed (R70, R78). -/
def Obligations.EncodeOfDecode : Prop :=
  ∀ (w : Word16) (i : Instr), decodeWord w = .ok i → encode i = w ∧ i.wellFormed = true

/-- R79, R223: exactly which words are unrecognised, how many, and that a cycle fails with `CodeNotRecognised(word)`
exactly on those. -/
def Obligations.UnrecognisedWordsExactly : Prop :=
  (∀ w : Word16, decodeWord w = .error (.codeNotRecognised w) ↔
    (w.toNat / 0x1000 = 0x8 ∧ w.toNat % 0x10 ∈ [0x8, 0x9, 0xA, 0xB, 0xC, 0xD, 0xF]) ∨
    (w.toNat / 0x1000 = 0xE ∧ w.toNat % 0x100 ∉ [0x9E, 0xA1]) ∨
    (w.toNat / 0x1000 = 0xF ∧
      w.toNat % 0x100 ∉ [0x07, 0x0A, 0x15, 0x18, 0x1E, 0x29, 0x33, 0x55, 0x65])) ∧
  (∀ w : Word16, (∃ i, decodeWord w = .ok i) ∨ decodeWord w = .error (.codeNotRecognised w)) ∧
  (∀ (s : State) (w : Word16), s.fetchWord = .ok w → decodeWord w = .error (.codeNotRecognised w) →
    ∃ t, step s = .next t ∧ t.result = .failed (.codeNotRecognised w)) ∧
  (∀ (s t : State) (w : Word16), step s = .next t → t.result = .failed (.codeNotRecognised w) →
    s.fetchWord = .ok w ∧ decodeWord w = .error (.codeNotRecognised w)) ∧
  (List.range 0x10000).countP (fun n => n / 0x1000 == 0x8 && (decodeWord (BitVec.ofNat 16 n)).toOption.isNone) = 1792 ∧
  (List.range 0x10000).countP (fun n => n / 0x1000 == 0xE && (decodeWord (BitVec.ofNat 16 n)).toOption.isNone) = 4064 ∧
  (List.range 0x10000).countP (fun n => n / 0x1000 == 0xF && (decodeWord (BitVec.ofNat 16 n)).toOption.isNone) = 3952 ∧
  (List.range 0x10000).countP (fun n => (decodeWord (BitVec.ofNat 16 n)).toOption.isNone) = 9808

/-- R81: the 65536 words split into 51634 of the executable classes, 4094 SYS and 9808 unrecognised. -/
def Obligations.WordClassCounts : Prop :=
  (List.range 0x10000).countP (fun n =>
    match decodeWord (BitVec.ofNat 16 n) with | .ok (.sys _) => false | .ok _ => true | .error _ => false) = 51634 ∧
  (List.range 0x10000).countP (fun n =>
    match decodeWord (BitVec.ofNat 16 n) with | .ok (.sys _) => true | .ok _ => false | .error _ => false) = 4094 ∧
  (List.range 0x10000).countP (fun n =>
    match decodeWord (BitVec.ofNat 16 n) with | .ok (.sys _) => false | .ok _ => false | .error _ => true) = 9808

/-- Section 4 of 30_encoding.md: a word decodes to a row's instruction exactly when `word &&& mask = match`, the SYS
row applying only when neither FIX row does. -/
def Obligations.OpcodeMapSelectsRow : Prop :=
  (∀ (w : Word16) (i : Instr), decodeWord w = .ok i → w &&& i.rowMask = i.rowMatch) ∧
  (∀ (w : Word16) (i : Instr), w &&& i.rowMask = i.rowMatch → i.rowMatch ≠ 0x0000#16 →
    ∃ j, decodeWord w = .ok j ∧ j.rowMask = i.rowMask ∧ j.rowMatch = i.rowMatch) ∧
  (∀ w : Word16, w &&& 0xF000#16 = 0x0000#16 → w ≠ 0x00E0#16 → w ≠ 0x00EE#16 →
    ∃ nnn, decodeWord w = .ok (.sys nnn))

/-- R78 (decisions D7, D30): the low nibble of 5XYN and 9XYN and the Y field of 8XY6 and 8XYE change neither what a
word decodes to (but for the field itself) nor what it does, in any state. -/
def Obligations.IgnoredFieldsHaveNoEffect : Prop :=
  ∀ (x y y' n n' : Nib) (s : State),
    decodeWord (BitVec.ofNat 16 (0x5000 + x.toNat * 0x100 + y.toNat * 0x10 + n.toNat)) = .ok (.seReg x y n) ∧
    decodeWord (BitVec.ofNat 16 (0x9000 + x.toNat * 0x100 + y.toNat * 0x10 + n.toNat)) = .ok (.sneReg x y n) ∧
    decodeWord (BitVec.ofNat 16 (0x8006 + x.toNat * 0x100 + y.toNat * 0x10)) = .ok (.shr x y) ∧
    decodeWord (BitVec.ofNat 16 (0x800E + x.toNat * 0x100 + y.toNat * 0x10)) = .ok (.shl x y) ∧
    exec (.seReg x y n) s = exec (.seReg x y n') s ∧ exec (.sneReg x y n) s = exec (.sneReg x y n') s ∧
    exec (.shr x y) s = exec (.shr x y') s ∧ exec (.shl x y) s = exec (.shl x y') s

/-! ### The cycle (60_exceptions.md) -/

/-- When the two bytes at pc decode to an instruction, the step runs it: `exec` answers a state and the step answers
that state after the end of the cycle (R220; `TimerStepEndsEveryCycle` says what `State.endCycle` changes). -/
def Obligations.StepRunsDecodedInstruction : Prop :=
  ∀ (s : State) (i : Instr), s.pc.toNat ≤ 0x0FFE →
    decodeWord (BitVec.ofNat 16 ((s.byteAt s.pc.toNat).toNat * 0x100 + (s.byteAt (s.pc.toNat + 1)).toNat)) = .ok i →
    step s = endOutcome (exec i s) ∧ ∃ u, exec i s = .next u ∧ step s = .next u.endCycle

/-- R221 (decision D2): the fetch is big-endian from pc and pc + 1 for every pc up to 0x0FFE, odd or even; beyond, it
raises `AddressOutOfRange` and the cycle fails. -/
def Obligations.FetchReadsTwoBytesOrFails : Prop :=
  (∀ s : State, s.pc.toNat ≤ 0x0FFE → ∃ w, s.fetchWord = .ok w ∧
    w.toNat = (s.byteAt s.pc.toNat).toNat * 0x100 + (s.byteAt (s.pc.toNat + 1)).toNat) ∧
  (∀ s : State, 0x0FFE < s.pc.toNat →
    s.fetchWord = .error (.addressOutOfRange (if s.pc.toNat = 0x0FFF then 0x1000 else s.pc.toNat)) ∧
    ∃ t, step s = .next t ∧
      t.result = .failed (.addressOutOfRange (if s.pc.toNat = 0x0FFF then 0x1000 else s.pc.toNat)))

/-- R236 (decision D14): the timer step ends every cycle, successful or failed, after the instruction's effects `u`;
it decrements each timer to a floor of 0, tone is whether ST was 1 before it, and it changes nothing else of the
machine. -/
def Obligations.TimerStepEndsEveryCycle : Prop :=
  ∀ s t : State, step s = .next t →
    ∃ u, ((∃ i, s.fetchInstr = .ok i ∧ exec i s = .next u) ∨
        (∃ f, s.fetchInstr = .error f ∧ s.takeFailure f = .next u)) ∧
      t.dt.toNat = u.dt.toNat - 1 ∧ t.st.toNat = u.st.toNat - 1 ∧ (t.tone = true ↔ u.st = 1#8) ∧
      KeepsRegsBut [] u t ∧ t.pc = u.pc ∧ t.i = u.i ∧ t.stk = u.stk ∧ KeepsMemory u t ∧ KeepsDisplay u t ∧
      t.k = u.k ∧ t.result = u.result ∧ t.config = u.config

/-- R222 (decision D17): a failure of fetch or decode is the cycle's result, and a failed cycle, whatever failed,
leaves no register, pc, I, stack, memory or display value changed; the timer step of the same cycle runs and may emit
the tone trigger. -/
def Obligations.FailedCycleIsPrecise : Prop :=
  (∀ (s : State) (f : Failure), s.fetchInstr = .error f → ∃ t, step s = .next t ∧ t.result = .failed f) ∧
  (∀ (s t : State) (f : Failure), step s = .next t → t.result = .failed f →
    KeepsRegsBut [] s t ∧ t.pc = s.pc ∧ t.i = s.i ∧ t.stk = s.stk ∧ KeepsMemory s t ∧ KeepsDisplay s t ∧
    t.k = s.k ∧ t.config = s.config ∧
    t.dt.toNat = s.dt.toNat - 1 ∧ t.st.toNat = s.st.toNat - 1 ∧ (t.tone = true ↔ s.st = 1#8))

/-- R223 to R229 (decisions D2 to D5): what each kind of failure says of the cycle that reports it: which step raised
it, on which condition, and that what it records is the state's. -/
def Obligations.EachFailureHasItsCause : Prop :=
  ∀ (s t : State) (f : Failure), step s = .next t → t.result = .failed f →
    match f with
    | .codeNotRecognised w => s.fetchWord = .ok w ∧ ∀ i, decodeWord w ≠ .ok i
    | .codeNotImplemented w => s.fetchWord = .ok w ∧ ∃ nnn, s.fetchInstr = .ok (.sys nnn)
    | .addressOutOfRange a => 0xFFF < a ∧ (0xFFE < s.pc.toNat ∨ ∃ x y n,
        (s.fetchInstr = .ok (.drw x y n) ∧ s.base ≤ a ∧ a < s.base + n.toNat) ∨
        (s.fetchInstr = .ok (.ldB x) ∧ s.base ≤ a ∧ a ≤ s.base + 2) ∨
        ((s.fetchInstr = .ok (.ldMemVx x) ∨ s.fetchInstr = .ok (.ldVxMem x)) ∧
          s.base ≤ a ∧ a ≤ s.base + x.toNat))
    | .stackOverflow => (∃ nnn, s.fetchInstr = .ok (.call nnn)) ∧ 16 ≤ s.stk.length
    | .stackUnderflow => s.fetchInstr = .ok .ret ∧ s.stk = []
    | .keyOutOfRange k => 0xF < k.toNat ∧
        ∃ x, (s.fetchInstr = .ok (.skp x) ∨ s.fetchInstr = .ok (.sknp x)) ∧ s.reg x = k
    | .drawOutOfBounds x0 y0 n => s.config.drawEdge = .reject ∧
        ∃ x y, s.fetchInstr = .ok (.drw x y n) ∧ s.reg x = x0 ∧ s.reg y = y0 ∧ SpriteLeavesGrid s x y n

/-- R241: every cycle answers a next state with a result, whatever the state and the host's byte: the core never
refuses a call and never blocks. -/
def Obligations.EveryCycleAnswers : Prop :=
  ∀ (s : State) (b : Byte), ∃ t, s.cycle b = .next t

/-- R241: the host's byte is used only by a cycle that executes CXNN; any other cycle ends in the same state whatever
the byte, and two cycles that execute CXNN on different bytes end in states that differ in no more than the bits of
V[X] under 1 bits of NN. -/
def Obligations.RandReadOnlyByRnd : Prop :=
  ∀ (s : State) (b c : Byte),
    ((∀ x nn, s.fetchInstr ≠ .ok (.rnd x nn)) → s.cycle b = s.cycle c) ∧
    (∀ x nn, s.fetchInstr = .ok (.rnd x nn) → ∃ t y, s.cycle b = .next t ∧ s.cycle c = .next (t.setReg x y) ∧
      ∀ j, nn.getLsbD j = false → y.getLsbD j = (t.reg x).getLsbD j)

/-- R234: a failed cycle, cycled again with no host operation between, fails again in the same way. -/
def Obligations.FailureRepeats : Prop :=
  ∀ (s t : State) (f : Failure), step s = .next t → t.result = .failed f →
    ∃ u, step t = .next u ∧ u.result = .failed f

/-- R276 (b): a jump to its own address is a fixed point of the cycle but for the timers. -/
def Obligations.SelfJumpIsFixedPoint : Prop :=
  ∀ (s : State) (nnn : Addr12), s.fetchInstr = .ok (.jp nnn) → s.pc.toNat = nnn.toNat →
    ∃ t, step s = .next t ∧ t.result = .ok ∧ t.pc = s.pc ∧ KeepsRegsBut [] s t ∧ t.i = s.i ∧ t.stk = s.stk ∧
      KeepsMemory s t ∧ KeepsDisplay s t ∧ t.k = s.k ∧ t.config = s.config ∧ s.fetchInstr = t.fetchInstr ∧
      t.dt.toNat = s.dt.toNat - 1 ∧ t.st.toNat = s.st.toNat - 1

/-! ### Reset and the host's operations (10_state.md R36, 60_exceptions.md R240 to R245, 70_reset_and_hazards.md) -/

/-- R36 (decision D20): the state after reset, and equally after a host reset of any state; FONT is the block's own.
-/
def Obligations.ResetValues : Prop :=
  ∀ s t : State, (t = State.reset ∨ t = s.hostReset) →
    (∀ r, t.reg r = 0x00#8) ∧ t.pc = 0x0200#16 ∧ t.i = 0x0000#16 ∧ t.stk = [] ∧ t.dt = 0x00#8 ∧ t.st = 0x00#8 ∧
    (∀ a (h : a < 0x050), t.byteAt a = t.config.font[a]) ∧
    (∀ a, 0x050 ≤ a → a ≤ 0xFFF → t.byteAt a = 0x00#8) ∧
    (∀ x y, t.pixel x y = false) ∧ t.k = Vector.replicate 16 false

/-- The reset state is in the state space of R37 and pc is in reach. -/
def Obligations.ResetMeetsInvariants : Prop := State.reset.Inv ∧ State.reset.PcInReach

/-- R37: every cycle keeps the state space: memory canonical within 0x000 to 0xFFF, at most 16 stack entries. -/
def Obligations.StepKeepsInv : Prop :=
  ∀ s t : State, s.Inv → step s = .next t → t.Inv

/-- R23: every cycle keeps pc at most 0x10FE and every saved return address at most 0x1000, so the reduction modulo
65536 is never reached. -/
def Obligations.StepKeepsPcInReach : Prop :=
  ∀ s t : State, s.PcInReach → step s = .next t → t.PcInReach

/-- Every host operation keeps both invariants (R240 to R244). -/
def Obligations.HostActionsKeepInvariants : Prop :=
  ∀ (s : State) (a : HostAction), s.Inv → s.PcInReach → (s.act a).Inv ∧ (s.act a).PcInReach

/-- R260, R261: what a reset leaves depends on nothing in the old state but the block's configuration; it emits no
tone trigger, a second one changes nothing, and with the default parameters it equals a freshly constructed block. -/
def Obligations.HostResetForgets : Prop :=
  ∀ s s' : State, s.config = s'.config →
    (KeepsAll s.hostReset { s'.hostReset with rand := s.hostReset.rand, draws := s.hostReset.draws } ∧
      s.hostReset.result = s'.hostReset.result) ∧
    s.hostReset.tone = false ∧ s.hostReset.hostReset = s.hostReset ∧
    (s.config = State.reset.config →
      s.hostReset = { State.reset with rand := s.rand, draws := s.draws })

/-- R243 (decision D22), R230: a load of at most 3584 bytes writes exactly the image from 0x200 upward; a longer one
writes nothing and names the size and the limit. -/
def Obligations.LoadWritesExactlyTheImage : Prop :=
  (∀ (s : State) (bytes : List Byte), bytes.length ≤ 3584 → ∃ t, s.load bytes = (.ok, t) ∧
    (∀ j (h : j < bytes.length), t.byteAt (0x200 + j) = bytes[j]) ∧
    (∀ a, a < 0x200 ∨ 0x200 + bytes.length ≤ a → t.byteAt a = s.byteAt a) ∧
    KeepsRegsBut [] s t ∧ t.pc = s.pc ∧ t.i = s.i ∧ t.stk = s.stk ∧ KeepsTimers s t ∧ KeepsDisplay s t ∧
    KeepsHostSide s t ∧ t.result = s.result) ∧
  (∀ (s : State) (bytes : List Byte), 3584 < bytes.length →
    s.load bytes = (.notEnoughMemory bytes.length 3584, s))

/-- R244: setKey sets one cell and nothing else. -/
def Obligations.SetKeyWritesOneCell : Prop :=
  ∀ (s : State) (c : Nib) (b : Bool),
    (∀ e, Keys.pressed (s.setKey c b).k e = if e = c then b else Keys.pressed s.k e) ∧
    s.setKey c b = { s with k := (s.setKey c b).k }

/-! ### Rules over all instructions (10_state.md) -/

/-- R33: no cycle writes a key cell; nor does one change the configuration (R12). -/
def Obligations.CycleLeavesKeysAndConfig : Prop :=
  ∀ s t : State, step s = .next t → t.k = s.k ∧ t.config = s.config

/-- R28, R56: a cycle that changes a byte of memory executes FX33 and the byte is one of I to I + 2, or FX55 and the
byte is one of I to I + X. -/
def Obligations.OnlyStoresChangeMemory : Prop :=
  ∀ (s t : State) (a : Nat), step s = .next t → t.byteAt a ≠ s.byteAt a →
    ∃ x, (s.fetchInstr = .ok (.ldB x) ∧ s.base ≤ a ∧ a ≤ s.base + 2 ∧ s.base + 2 ≤ 0xFFF) ∨
      (s.fetchInstr = .ok (.ldMemVx x) ∧ s.base ≤ a ∧ a ≤ s.base + x.toNat ∧ s.base + x.toNat ≤ 0xFFF)

/-- R192 (c), R32: a cycle that changes a pixel executes CLS or DXYN, and one that sets it to 1 executes DXYN. -/
def Obligations.OnlyClsAndDrwChangeDisplay : Prop :=
  ∀ (s t : State) (px : Fin 64) (py : Fin 32), step s = .next t → t.pixel px py ≠ s.pixel px py →
    (∃ x y n, s.fetchInstr = .ok (.drw x y n)) ∨ (s.fetchInstr = .ok .cls ∧ t.pixel px py = false)

/-- R26: only call and return change the stack; a call appends pc + 2, a return removes the last entry. -/
def Obligations.OnlyCallAndRetChangeStack : Prop :=
  ∀ s t : State, step s = .next t → t.stk ≠ s.stk →
    ((∃ nnn, s.fetchInstr = .ok (.call nnn)) ∧ t.stk = s.stk ++ [s.pc + 2#16]) ∨
    (s.fetchInstr = .ok .ret ∧ ∃ w, s.stk = t.stk ++ [w])

/-- R25: I is written by ANNN, FX1E and FX29 only, with the values the rule gives. -/
def Obligations.OnlyThreeInstructionsWriteI : Prop :=
  ∀ s t : State, step s = .next t → t.i ≠ s.i →
    (∃ nnn, s.fetchInstr = .ok (.ldI nnn) ∧ t.i.toNat = nnn.toNat) ∨
    (∃ x, s.fetchInstr = .ok (.addI x) ∧ t.i.toNat = (s.i.toNat + (s.reg x).toNat) % 65536) ∨
    (∃ x, s.fetchInstr = .ok (.ldF x) ∧ t.i.toNat = (s.reg x).toNat * 5)

/-- R21: a cycle that changes VF executes one of the six flag writers, leaving 0 or 1 there unless X = 0xF, or an
instruction that names register 0xF as a destination. -/
def Obligations.VfWritersExactly : Prop :=
  ∀ s t : State, step s = .next t → t.reg 0xF#4 ≠ s.reg 0xF#4 →
    (∃ x y, (s.fetchInstr = .ok (.addReg x y) ∨
        (x ≠ 0xF#4 ∧ (s.fetchInstr = .ok (.sub x y) ∨ s.fetchInstr = .ok (.shr x y) ∨
          s.fetchInstr = .ok (.subn x y) ∨ s.fetchInstr = .ok (.shl x y))) ∨
        ∃ n, s.fetchInstr = .ok (.drw x y n)) ∧ (t.reg 0xF#4 = 0#8 ∨ t.reg 0xF#4 = 1#8)) ∨
    (∃ y, s.fetchInstr = .ok (.sub 0xF#4 y) ∨ s.fetchInstr = .ok (.shr 0xF#4 y) ∨
      s.fetchInstr = .ok (.subn 0xF#4 y) ∨ s.fetchInstr = .ok (.shl 0xF#4 y) ∨
      s.fetchInstr = .ok (.ldReg 0xF#4 y) ∨ s.fetchInstr = .ok (.or 0xF#4 y) ∨
      s.fetchInstr = .ok (.and 0xF#4 y) ∨ s.fetchInstr = .ok (.xor 0xF#4 y)) ∨
    (∃ nn, s.fetchInstr = .ok (.ldImm 0xF#4 nn) ∨ s.fetchInstr = .ok (.addImm 0xF#4 nn) ∨
      s.fetchInstr = .ok (.rnd 0xF#4 nn)) ∨
    s.fetchInstr = .ok (.ldVxDt 0xF#4) ∨ s.fetchInstr = .ok (.ldVxK 0xF#4) ∨ s.fetchInstr = .ok (.ldVxMem 0xF#4)

/-- R23: every way pc can change in a cycle. -/
def Obligations.PcUpdateForms : Prop :=
  ∀ s t : State, step s = .next t →
    t.pc.toNat = (s.pc.toNat + 2) % 65536 ∨
    (t.pc.toNat = (s.pc.toNat + 4) % 65536 ∧ ∃ x y n nn,
      s.fetchInstr = .ok (.seImm x nn) ∨ s.fetchInstr = .ok (.sneImm x nn) ∨ s.fetchInstr = .ok (.seReg x y n) ∨
      s.fetchInstr = .ok (.sneReg x y n) ∨ s.fetchInstr = .ok (.skp x) ∨ s.fetchInstr = .ok (.sknp x)) ∨
    (∃ nnn : Addr12, t.pc.toNat = nnn.toNat ∧
      (s.fetchInstr = .ok (.jp nnn) ∨ s.fetchInstr = .ok (.call nnn))) ∨
    (∃ nnn : Addr12, s.fetchInstr = .ok (.jpV0 nnn) ∧ t.pc.toNat = nnn.toNat + (s.reg 0x0#4).toNat) ∨
    (s.fetchInstr = .ok .ret ∧ s.stk.getLast? = some t.pc) ∨
    (t.pc = s.pc ∧ ((∃ f, t.result = .failed f) ∨
      ∃ x, s.fetchInstr = .ok (.ldVxK x) ∧ ∀ c, Keys.pressed s.k c = false))

/-- R27: in a cycle each timer decrements by at most 1, floor 0, unless the cycle executes the one instruction that
writes it, in which case the written value is what the timer step decrements. -/
def Obligations.TimersCountDownUnlessWritten : Prop :=
  ∀ s t : State, step s = .next t →
    (t.dt.toNat = s.dt.toNat - 1 ∨ ∃ x, s.fetchInstr = .ok (.ldDtVx x) ∧ t.dt.toNat = (s.reg x).toNat - 1) ∧
    (t.st.toNat = s.st.toNat - 1 ∨ ∃ x, s.fetchInstr = .ok (.ldStVx x) ∧ t.st.toNat = (s.reg x).toNat - 1)

/-! ### Control flow (40_control_flow.md) -/

/-- R101: SYS always raises `CodeNotImplemented(word)` and changes nothing. -/
def Obligations.SysFailsNotImplemented : Prop :=
  (∀ nnn : Addr12, nnn ≠ 0x0E0#12 → nnn ≠ 0x0EE#12 → decodeWord (BitVec.ofNat 16 nnn.toNat) = .ok (.sys nnn)) ∧
  (∀ (nnn : Addr12) (s : State), ∃ t, exec (.sys nnn) s = .next t ∧
    t.result = .failed (.codeNotImplemented (BitVec.ofNat 16 nnn.toNat)) ∧ KeepsAll s t)

/-- R102 (decision D3): a return sets pc to the last entry as it stands and removes it; with no entry it raises
`StackUnderflow`. -/
def Obligations.RetPopsOrUnderflows : Prop :=
  decodeWord 0x00EE#16 = .ok .ret ∧
  (∀ (s : State) (l : List Word16) (w : Word16), s.stk = l ++ [w] → ∃ t, exec .ret s = .next t ∧ t.result = .ok ∧
    t.pc = w ∧ t.stk = l ∧ KeepsRegsBut [] s t ∧ t.i = s.i ∧ KeepsTimers s t ∧ KeepsMemory s t ∧
    KeepsDisplay s t ∧ KeepsHostSide s t) ∧
  (∀ s : State, s.stk = [] → ∃ t, exec .ret s = .next t ∧ t.result = .failed .stackUnderflow ∧ KeepsAll s t)

/-- R103: a jump sets pc to NNN, whatever pc was. -/
def Obligations.JpSetsPc : Prop :=
  ∀ (nnn : Addr12) (s : State), decodeWord (BitVec.ofNat 16 (0x1000 + nnn.toNat)) = .ok (.jp nnn) ∧
    ∃ t, exec (.jp nnn) s = .next t ∧ t.result = .ok ∧ t.pc.toNat = nnn.toNat ∧ KeepsAllButPc s t

/-- R104 (decisions D1, D3): a call appends pc + 2 and sets pc to NNN; at depth 16 it raises `StackOverflow`. -/
def Obligations.CallPushesOrOverflows : Prop :=
  (∀ nnn : Addr12, decodeWord (BitVec.ofNat 16 (0x2000 + nnn.toNat)) = .ok (.call nnn)) ∧
  (∀ (nnn : Addr12) (s : State), s.stk.length < 16 → ∃ t, exec (.call nnn) s = .next t ∧ t.result = .ok ∧
    (∃ w, t.stk = s.stk ++ [w] ∧ w.toNat = (s.pc.toNat + 2) % 65536) ∧ t.pc.toNat = nnn.toNat ∧
    KeepsRegsBut [] s t ∧ t.i = s.i ∧ KeepsTimers s t ∧ KeepsMemory s t ∧ KeepsDisplay s t ∧ KeepsHostSide s t) ∧
  (∀ (nnn : Addr12) (s : State), s.stk.length = 16 →
    ∃ t, exec (.call nnn) s = .next t ∧ t.result = .failed .stackOverflow ∧ KeepsAll s t)

/-- R105: a jump with offset sets pc to NNN + V[0], not reduced to 12 bits; NNN's top nibble names no register. -/
def Obligations.JpV0AddsV0 : Prop :=
  ∀ (nnn : Addr12) (s : State), decodeWord (BitVec.ofNat 16 (0xB000 + nnn.toNat)) = .ok (.jpV0 nnn) ∧
    ∃ t, exec (.jpV0 nnn) s = .next t ∧ t.result = .ok ∧ t.pc.toNat = nnn.toNat + (s.reg 0x0#4).toNat ∧
      KeepsAllButPc s t

/-! ### Skips (41_skips.md) -/

/-- R120, R121: SE and SNE with an immediate. -/
def Obligations.SkipsOnImmediate : Prop :=
  ∀ (x : Nib) (nn : Byte) (s : State),
    decodeWord (BitVec.ofNat 16 (0x3000 + x.toNat * 0x100 + nn.toNat)) = .ok (.seImm x nn) ∧
    decodeWord (BitVec.ofNat 16 (0x4000 + x.toNat * 0x100 + nn.toNat)) = .ok (.sneImm x nn) ∧
    (∃ t, exec (.seImm x nn) s = .next t ∧ t.result = .ok ∧ KeepsAllButPc s t ∧
      t.pc.toNat = (s.pc.toNat + if s.reg x = nn then 4 else 2) % 65536) ∧
    (∃ t, exec (.sneImm x nn) s = .next t ∧ t.result = .ok ∧ KeepsAllButPc s t ∧
      t.pc.toNat = (s.pc.toNat + if s.reg x ≠ nn then 4 else 2) % 65536)

/-- R122, R123 (decision D7): SE and SNE between registers, for every low nibble. -/
def Obligations.SkipsOnRegister : Prop :=
  ∀ (x y n : Nib) (s : State),
    decodeWord (BitVec.ofNat 16 (0x5000 + x.toNat * 0x100 + y.toNat * 0x10 + n.toNat)) = .ok (.seReg x y n) ∧
    decodeWord (BitVec.ofNat 16 (0x9000 + x.toNat * 0x100 + y.toNat * 0x10 + n.toNat)) = .ok (.sneReg x y n) ∧
    (∃ t, exec (.seReg x y n) s = .next t ∧ t.result = .ok ∧ KeepsAllButPc s t ∧
      t.pc.toNat = (s.pc.toNat + if s.reg x = s.reg y then 4 else 2) % 65536) ∧
    (∃ t, exec (.sneReg x y n) s = .next t ∧ t.result = .ok ∧ KeepsAllButPc s t ∧
      t.pc.toNat = (s.pc.toNat + if s.reg x ≠ s.reg y then 4 else 2) % 65536)

/-- R124, R125 (decision D4): SKP and SKNP test the key cell V[X]; a code above 0xF raises `KeyOutOfRange`. -/
def Obligations.SkipsOnKey : Prop :=
  (∀ x : Nib, decodeWord (BitVec.ofNat 16 (0xE09E + x.toNat * 0x100)) = .ok (.skp x) ∧
    decodeWord (BitVec.ofNat 16 (0xE0A1 + x.toNat * 0x100)) = .ok (.sknp x)) ∧
  (∀ (x c : Nib) (s : State), (s.reg x).toNat = c.toNat →
    (∃ t, exec (.skp x) s = .next t ∧ t.result = .ok ∧ KeepsAllButPc s t ∧
      t.pc.toNat = (s.pc.toNat + if Keys.pressed s.k c then 4 else 2) % 65536) ∧
    (∃ t, exec (.sknp x) s = .next t ∧ t.result = .ok ∧ KeepsAllButPc s t ∧
      t.pc.toNat = (s.pc.toNat + if Keys.pressed s.k c then 2 else 4) % 65536)) ∧
  (∀ (x : Nib) (s : State), 0xF < (s.reg x).toNat →
    (∃ t, exec (.skp x) s = .next t ∧ t.result = .failed (.keyOutOfRange (s.reg x)) ∧ KeepsAll s t) ∧
    (∃ t, exec (.sknp x) s = .next t ∧ t.result = .failed (.keyOutOfRange (s.reg x)) ∧ KeepsAll s t))

/-! ### Load, arithmetic, logic (42_load_arith_logic.md) -/

/-- R140, R141: load and add an immediate; the sum is modulo 256 and sets no flag (VF is changed only when X = 0xF).
-/
def Obligations.ImmediateLoadAndAdd : Prop :=
  ∀ (x : Nib) (nn : Byte) (s : State),
    decodeWord (BitVec.ofNat 16 (0x6000 + x.toNat * 0x100 + nn.toNat)) = .ok (.ldImm x nn) ∧
    decodeWord (BitVec.ofNat 16 (0x7000 + x.toNat * 0x100 + nn.toNat)) = .ok (.addImm x nn) ∧
    (∃ t, exec (.ldImm x nn) s = .next t ∧ t.result = .ok ∧ t.reg x = nn ∧ KeepsRegsBut [x] s t ∧
      t.pc.toNat = (s.pc.toNat + 2) % 65536 ∧ KeepsAllButRegs s t) ∧
    (∃ t, exec (.addImm x nn) s = .next t ∧ t.result = .ok ∧
      (t.reg x).toNat = ((s.reg x).toNat + nn.toNat) % 256 ∧ KeepsRegsBut [x] s t ∧
      t.pc.toNat = (s.pc.toNat + 2) % 65536 ∧ KeepsAllButRegs s t)

/-- R142 to R145: copy, or, and, exclusive or; bit by bit, VF unchanged unless X = 0xF. -/
def Obligations.CopyAndLogic : Prop :=
  ∀ (x y : Nib) (s : State),
    decodeWord (BitVec.ofNat 16 (0x8000 + x.toNat * 0x100 + y.toNat * 0x10)) = .ok (.ldReg x y) ∧
    decodeWord (BitVec.ofNat 16 (0x8001 + x.toNat * 0x100 + y.toNat * 0x10)) = .ok (.or x y) ∧
    decodeWord (BitVec.ofNat 16 (0x8002 + x.toNat * 0x100 + y.toNat * 0x10)) = .ok (.and x y) ∧
    decodeWord (BitVec.ofNat 16 (0x8003 + x.toNat * 0x100 + y.toNat * 0x10)) = .ok (.xor x y) ∧
    (∃ t, exec (.ldReg x y) s = .next t ∧ t.result = .ok ∧ t.reg x = s.reg y ∧
      KeepsRegsBut [x] s t ∧ t.pc.toNat = (s.pc.toNat + 2) % 65536 ∧ KeepsAllButRegs s t) ∧
    (∃ t, exec (.or x y) s = .next t ∧ t.result = .ok ∧
      (∀ b, (t.reg x).getLsbD b = ((s.reg x).getLsbD b || (s.reg y).getLsbD b)) ∧
      KeepsRegsBut [x] s t ∧ t.pc.toNat = (s.pc.toNat + 2) % 65536 ∧ KeepsAllButRegs s t) ∧
    (∃ t, exec (.and x y) s = .next t ∧ t.result = .ok ∧
      (∀ b, (t.reg x).getLsbD b = ((s.reg x).getLsbD b && (s.reg y).getLsbD b)) ∧
      KeepsRegsBut [x] s t ∧ t.pc.toNat = (s.pc.toNat + 2) % 65536 ∧ KeepsAllButRegs s t) ∧
    (∃ t, exec (.xor x y) s = .next t ∧ t.result = .ok ∧
      (∀ b, (t.reg x).getLsbD b = ((s.reg x).getLsbD b ^^ (s.reg y).getLsbD b)) ∧
      KeepsRegsBut [x] s t ∧ t.pc.toNat = (s.pc.toNat + 2) % 65536 ∧ KeepsAllButRegs s t)

/-- R146 (decision D6): result first, carry second, so with X = 0xF the carry remains. -/
def Obligations.AddRegSumsAndCarries : Prop :=
  ∀ (x y : Nib) (s : State),
    decodeWord (BitVec.ofNat 16 (0x8004 + x.toNat * 0x100 + y.toNat * 0x10)) = .ok (.addReg x y) ∧
    ∃ t, exec (.addReg x y) s = .next t ∧ t.result = .ok ∧
      (x ≠ 0xF#4 → (t.reg x).toNat = ((s.reg x).toNat + (s.reg y).toNat) % 256) ∧
      (t.reg 0xF#4).toNat = (if (s.reg x).toNat + (s.reg y).toNat > 255 then 1 else 0) ∧
      KeepsRegsBut [x, 0xF#4] s t ∧ t.pc.toNat = (s.pc.toNat + 2) % 65536 ∧ KeepsAllButRegs s t

/-- R147, R149 (decision D6): the strict flag first, the difference modulo 256 second, so with X = 0xF the difference
remains; both from the values held when the instruction begins. -/
def Obligations.SubtractionsFlagThenDifference : Prop :=
  ∀ (x y : Nib) (s : State),
    decodeWord (BitVec.ofNat 16 (0x8005 + x.toNat * 0x100 + y.toNat * 0x10)) = .ok (.sub x y) ∧
    decodeWord (BitVec.ofNat 16 (0x8007 + x.toNat * 0x100 + y.toNat * 0x10)) = .ok (.subn x y) ∧
    (∃ t, exec (.sub x y) s = .next t ∧ t.result = .ok ∧
      (t.reg x).toNat = ((s.reg x).toNat + 256 - (s.reg y).toNat) % 256 ∧
      (x ≠ 0xF#4 → (t.reg 0xF#4).toNat = if (s.reg x).toNat > (s.reg y).toNat then 1 else 0) ∧
      KeepsRegsBut [x, 0xF#4] s t ∧ t.pc.toNat = (s.pc.toNat + 2) % 65536 ∧ KeepsAllButRegs s t) ∧
    (∃ t, exec (.subn x y) s = .next t ∧ t.result = .ok ∧
      (t.reg x).toNat = ((s.reg y).toNat + 256 - (s.reg x).toNat) % 256 ∧
      (x ≠ 0xF#4 → (t.reg 0xF#4).toNat = if (s.reg y).toNat > (s.reg x).toNat then 1 else 0) ∧
      KeepsRegsBut [x, 0xF#4] s t ∧ t.pc.toNat = (s.pc.toNat + 2) % 65536 ∧ KeepsAllButRegs s t)

/-- R148, R150 (decisions D6, D30): the bit shifted out to VF first, the shifted value second, so with X = 0xF the
shifted value remains; no other register is read or written, V[Y] included. -/
def Obligations.ShiftsByOne : Prop :=
  ∀ (x y : Nib) (s : State),
    decodeWord (BitVec.ofNat 16 (0x8006 + x.toNat * 0x100 + y.toNat * 0x10)) = .ok (.shr x y) ∧
    decodeWord (BitVec.ofNat 16 (0x800E + x.toNat * 0x100 + y.toNat * 0x10)) = .ok (.shl x y) ∧
    (∃ t, exec (.shr x y) s = .next t ∧ t.result = .ok ∧ (t.reg x).toNat = (s.reg x).toNat / 2 ∧
      (x ≠ 0xF#4 → (t.reg 0xF#4).toNat = (s.reg x).toNat % 2) ∧
      KeepsRegsBut [x, 0xF#4] s t ∧ t.pc.toNat = (s.pc.toNat + 2) % 65536 ∧ KeepsAllButRegs s t) ∧
    (∃ t, exec (.shl x y) s = .next t ∧ t.result = .ok ∧ (t.reg x).toNat = (s.reg x).toNat * 2 % 256 ∧
      (x ≠ 0xF#4 → (t.reg 0xF#4).toNat = (s.reg x).toNat / 128) ∧
      KeepsRegsBut [x, 0xF#4] s t ∧ t.pc.toNat = (s.pc.toNat + 2) % 65536 ∧ KeepsAllButRegs s t)

/-- R151 (decision D11): V[X] is the cycle's input byte under the mask NN, whatever that byte is; a cycle that does
not execute CXNN ignores the byte. -/
def Obligations.RndMasksInput : Prop :=
  (∀ (x : Nib) (nn : Byte) (s : State),
    decodeWord (BitVec.ofNat 16 (0xC000 + x.toNat * 0x100 + nn.toNat)) = .ok (.rnd x nn) ∧
    ∃ t, exec (.rnd x nn) s = .next t ∧ t.result = .ok ∧
      (∀ b, (t.reg x).getLsbD b = (s.rand.getLsbD b && nn.getLsbD b)) ∧
      KeepsRegsBut [x] s t ∧ t.pc.toNat = (s.pc.toNat + 2) % 65536 ∧ KeepsAllButRegs s t) ∧
  (∀ (s : State) (b c : Byte), (∀ x nn, s.fetchInstr ≠ .ok (.rnd x nn)) → s.cycle b = s.cycle c)

/-! ### Index register and memory (43_index_memory.md) -/

/-- R170, R171 (decision D8), R172 (decision D29): the three writers of I; nothing else but pc changes, VF included.
-/
def Obligations.IndexWriters : Prop :=
  (∀ (nnn : Addr12) (s : State), decodeWord (BitVec.ofNat 16 (0xA000 + nnn.toNat)) = .ok (.ldI nnn) ∧
    ∃ t, exec (.ldI nnn) s = .next t ∧ t.result = .ok ∧ t.i.toNat = nnn.toNat ∧
      t.pc.toNat = (s.pc.toNat + 2) % 65536 ∧ KeepsRegsBut [] s t ∧ t.stk = s.stk ∧ KeepsTimers s t ∧
      KeepsMemory s t ∧ KeepsDisplay s t ∧ KeepsHostSide s t) ∧
  (∀ (x : Nib) (s : State), decodeWord (BitVec.ofNat 16 (0xF01E + x.toNat * 0x100)) = .ok (.addI x) ∧
    ∃ t, exec (.addI x) s = .next t ∧ t.result = .ok ∧ t.i.toNat = (s.i.toNat + (s.reg x).toNat) % 65536 ∧
      t.pc.toNat = (s.pc.toNat + 2) % 65536 ∧ KeepsRegsBut [] s t ∧ t.stk = s.stk ∧ KeepsTimers s t ∧
      KeepsMemory s t ∧ KeepsDisplay s t ∧ KeepsHostSide s t) ∧
  (∀ (x : Nib) (s : State), decodeWord (BitVec.ofNat 16 (0xF029 + x.toNat * 0x100)) = .ok (.ldF x) ∧
    ∃ t, exec (.ldF x) s = .next t ∧ t.result = .ok ∧ t.i.toNat = (s.reg x).toNat * 5 ∧
      t.pc.toNat = (s.pc.toNat + 2) % 65536 ∧ KeepsRegsBut [] s t ∧ t.stk = s.stk ∧ KeepsTimers s t ∧
      KeepsMemory s t ∧ KeepsDisplay s t ∧ KeepsHostSide s t)

/-- R173 (decision D2): hundreds, tens and units at I, I + 1, I + 2 and no other byte; with I + 2 above 0xFFF, no byte
at all and `AddressOutOfRange` with the lowest offending address. -/
def Obligations.BcdStoresThreeDigits : Prop :=
  (∀ x : Nib, decodeWord (BitVec.ofNat 16 (0xF033 + x.toNat * 0x100)) = .ok (.ldB x)) ∧
  (∀ (x : Nib) (s : State), s.base + 2 ≤ 0xFFF → ∃ t, exec (.ldB x) s = .next t ∧ t.result = .ok ∧
    (t.byteAt s.base).toNat = (s.reg x).toNat / 100 ∧
    (t.byteAt (s.base + 1)).toNat = (s.reg x).toNat / 10 % 10 ∧
    (t.byteAt (s.base + 2)).toNat = (s.reg x).toNat % 10 ∧
    (∀ a, a < s.base ∨ s.base + 2 < a → t.byteAt a = s.byteAt a) ∧
    t.pc.toNat = (s.pc.toNat + 2) % 65536 ∧ KeepsRegsBut [] s t ∧ t.i = s.i ∧ t.stk = s.stk ∧ KeepsTimers s t ∧
    KeepsDisplay s t ∧ KeepsHostSide s t) ∧
  (∀ (x : Nib) (s : State), 0xFFF < s.base + 2 → ∃ t, exec (.ldB x) s = .next t ∧
    t.result = .failed (.addressOutOfRange (if s.base < 0x1000 then 0x1000 else s.base)) ∧ KeepsAll s t)

/-- R174 (decision D2): V[0] to V[X] at I to I + X and no other byte, I unchanged; with I + X above 0xFFF, no byte at
all and `AddressOutOfRange` with the lowest offending address. -/
def Obligations.StoreRegistersUpToX : Prop :=
  (∀ x : Nib, decodeWord (BitVec.ofNat 16 (0xF055 + x.toNat * 0x100)) = .ok (.ldMemVx x)) ∧
  (∀ (x : Nib) (s : State), s.base + x.toNat ≤ 0xFFF → ∃ t, exec (.ldMemVx x) s = .next t ∧ t.result = .ok ∧
    (∀ r : Nib, r.toNat ≤ x.toNat → t.byteAt (s.base + r.toNat) = s.reg r) ∧
    (∀ a, a < s.base ∨ s.base + x.toNat < a → t.byteAt a = s.byteAt a) ∧
    t.pc.toNat = (s.pc.toNat + 2) % 65536 ∧ KeepsRegsBut [] s t ∧ t.i = s.i ∧ t.stk = s.stk ∧ KeepsTimers s t ∧
    KeepsDisplay s t ∧ KeepsHostSide s t) ∧
  (∀ (x : Nib) (s : State), 0xFFF < s.base + x.toNat → ∃ t, exec (.ldMemVx x) s = .next t ∧
    t.result = .failed (.addressOutOfRange (if s.base < 0x1000 then 0x1000 else s.base)) ∧ KeepsAll s t)

/-- R175 (decision D2): V[0] to V[X] from I to I + X, the registers above X and memory and I unchanged; with I + X
above 0xFFF, no register at all and `AddressOutOfRange` with the lowest offending address. -/
def Obligations.LoadRegistersUpToX : Prop :=
  (∀ x : Nib, decodeWord (BitVec.ofNat 16 (0xF065 + x.toNat * 0x100)) = .ok (.ldVxMem x)) ∧
  (∀ (x : Nib) (s : State), s.base + x.toNat ≤ 0xFFF → ∃ t, exec (.ldVxMem x) s = .next t ∧ t.result = .ok ∧
    (∀ r : Nib, t.reg r = if r.toNat ≤ x.toNat then s.byteAt (s.base + r.toNat) else s.reg r) ∧
    t.pc.toNat = (s.pc.toNat + 2) % 65536 ∧ KeepsAllButRegs s t) ∧
  (∀ (x : Nib) (s : State), 0xFFF < s.base + x.toNat → ∃ t, exec (.ldVxMem x) s = .next t ∧
    t.result = .failed (.addressOutOfRange (if s.base < 0x1000 then 0x1000 else s.base)) ∧ KeepsAll s t)

/-- R174, R175 (95_test_vectors.md S9): a store and a load with the same X and I restore V[0] to V[X] whatever was
done to the registers between, as long as I and the stored bytes were left alone. -/
def Obligations.StoreThenLoadRestores : Prop :=
  ∀ (x : Nib) (s t u v : State), exec (.ldMemVx x) s = .next t → t.result = .ok →
    u.i = t.i → (∀ a, s.base ≤ a → a ≤ s.base + x.toNat → u.byteAt a = t.byteAt a) →
    exec (.ldVxMem x) u = .next v →
    v.result = .ok ∧ ∀ r : Nib, r.toNat ≤ x.toNat → v.reg r = s.reg r

/-- R60, R273: the fetch after a cycle that executes FX55 reads the bytes just stored where they were stored, and the
bytes that were there before elsewhere; no cycle lies between. -/
def Obligations.StoreSeenByNextFetch : Prop :=
  ∀ (x : Nib) (s t : State), s.fetchInstr = .ok (.ldMemVx x) → step s = .next t → t.result = .ok →
    t.pc.toNat ≤ 0xFFE → ∃ w, t.fetchWord = .ok w ∧
      (∀ r : Nib, r.toNat ≤ x.toNat → s.base + r.toNat = t.pc.toNat → w.toNat / 0x100 = (s.reg r).toNat) ∧
      (∀ r : Nib, r.toNat ≤ x.toNat → s.base + r.toNat = t.pc.toNat + 1 → w.toNat % 0x100 = (s.reg r).toNat) ∧
      ((t.pc.toNat < s.base ∨ s.base + x.toNat < t.pc.toNat) → w.toNat / 0x100 = (s.byteAt t.pc.toNat).toNat) ∧
      ((t.pc.toNat + 1 < s.base ∨ s.base + x.toNat < t.pc.toNat + 1) →
        w.toNat % 0x100 = (s.byteAt (t.pc.toNat + 1)).toNat)

/-! ### Display (44_display.md) -/

/-- R190: every pixel 0 and nothing else but pc, VF included. -/
def Obligations.ClsClearsEveryPixel : Prop :=
  decodeWord 0x00E0#16 = .ok .cls ∧
  ∀ s : State, ∃ t, exec .cls s = .next t ∧ t.result = .ok ∧ (∀ px py, t.pixel px py = false) ∧
    t.pc.toNat = (s.pc.toNat + 2) % 65536 ∧ KeepsRegsBut [] s t ∧ t.i = s.i ∧ t.stk = s.stk ∧ KeepsTimers s t ∧
    KeepsMemory s t ∧ KeepsHostSide s t

/-- R191 (decisions D2, D5, D23): the words; each pixel is exclusive-ored with whether a 1 bit of the sprite lands on
it, under each of the three edge policies, and VF is 1 exactly when a set pixel was under one; nothing else changes. A
sprite byte above 0xFFF raises `AddressOutOfRange` first; a 1 bit outside the grid under `reject` raises
`DrawOutOfBounds`; both change nothing. -/
def Obligations.DrwExclusiveOrsSprite : Prop :=
  (∀ x y n : Nib,
    decodeWord (BitVec.ofNat 16 (0xD000 + x.toNat * 0x100 + y.toNat * 0x10 + n.toNat)) = .ok (.drw x y n)) ∧
  (∀ (x y n : Nib) (s : State), (n = 0#4 ∨ s.base + n.toNat - 1 ≤ 0xFFF) →
    (s.config.drawEdge = .reject → ¬ SpriteLeavesGrid s x y n) →
    ∃ t, exec (.drw x y n) s = .next t ∧ t.result = .ok ∧
      (∀ px py, SpriteCovers s x y n px py → t.pixel px py = !s.pixel px py) ∧
      (∀ px py, ¬ SpriteCovers s x y n px py → t.pixel px py = s.pixel px py) ∧
      (t.reg 0xF#4 = 0#8 ∨ t.reg 0xF#4 = 1#8) ∧
      (t.reg 0xF#4 = 1#8 ↔ ∃ px py, SpriteCovers s x y n px py ∧ s.pixel px py = true) ∧
      KeepsRegsBut [0xF#4] s t ∧ t.pc.toNat = (s.pc.toNat + 2) % 65536 ∧ t.i = s.i ∧ t.stk = s.stk ∧
      KeepsTimers s t ∧ KeepsMemory s t ∧ KeepsHostSide s t) ∧
  (∀ (x y n : Nib) (s : State), n ≠ 0#4 → 0xFFF < s.base + n.toNat - 1 →
    ∃ t, exec (.drw x y n) s = .next t ∧
      t.result = .failed (.addressOutOfRange (if s.base < 0x1000 then 0x1000 else s.base)) ∧ KeepsAll s t) ∧
  (∀ (x y n : Nib) (s : State), (n = 0#4 ∨ s.base + n.toNat - 1 ≤ 0xFFF) → s.config.drawEdge = .reject →
    SpriteLeavesGrid s x y n →
    ∃ t, exec (.drw x y n) s = .next t ∧
      t.result = .failed (.drawOutOfBounds (s.reg x) (s.reg y) n) ∧ KeepsAll s t)

/-- R192 (a): the same draw twice in a row, X and Y not 0xF, restores the display exactly; the second reports a
collision exactly when the first turned a pixel on. -/
def Obligations.DrwTwiceRestoresDisplay : Prop :=
  ∀ (x y n : Nib) (s t : State), x ≠ 0xF#4 → y ≠ 0xF#4 → exec (.drw x y n) s = .next t → t.result = .ok →
    ∃ u, exec (.drw x y n) t = .next u ∧ u.result = .ok ∧ KeepsDisplay s u ∧
      (u.reg 0xF#4 = 1#8 ↔ ∃ px py, s.pixel px py = false ∧ t.pixel px py = true)

/-! ### Timers and keys (45_timers_keys.md) -/

/-- R200, R202, R203: the timer moves of the execute step; the timer step of the same cycle comes after them. -/
def Obligations.TimerMoves : Prop :=
  ∀ (x : Nib) (s : State),
    decodeWord (BitVec.ofNat 16 (0xF007 + x.toNat * 0x100)) = .ok (.ldVxDt x) ∧
    decodeWord (BitVec.ofNat 16 (0xF015 + x.toNat * 0x100)) = .ok (.ldDtVx x) ∧
    decodeWord (BitVec.ofNat 16 (0xF018 + x.toNat * 0x100)) = .ok (.ldStVx x) ∧
    (∃ t, exec (.ldVxDt x) s = .next t ∧ t.result = .ok ∧ t.reg x = s.dt ∧ KeepsRegsBut [x] s t ∧
      t.pc.toNat = (s.pc.toNat + 2) % 65536 ∧ KeepsAllButRegs s t) ∧
    (∃ t, exec (.ldDtVx x) s = .next t ∧ t.result = .ok ∧ t.dt = s.reg x ∧ t.st = s.st ∧ KeepsRegsBut [] s t ∧
      t.pc.toNat = (s.pc.toNat + 2) % 65536 ∧ t.i = s.i ∧ t.stk = s.stk ∧ KeepsMemory s t ∧ KeepsDisplay s t ∧
      KeepsHostSide s t) ∧
    (∃ t, exec (.ldStVx x) s = .next t ∧ t.result = .ok ∧ t.st = s.reg x ∧ t.dt = s.dt ∧ KeepsRegsBut [] s t ∧
      t.pc.toNat = (s.pc.toNat + 2) % 65536 ∧ t.i = s.i ∧ t.stk = s.stk ∧ KeepsMemory s t ∧ KeepsDisplay s t ∧
      KeepsHostSide s t)

/-- R271: a value n written to a timer is n - 1 at the end of that cycle, floor 0; writing 1 to ST fires the tone in
the same cycle and writing 0 over a 1 does not; FX07 reads one more than DT at the end of the cycle, unless 0. -/
def Obligations.TimerWriteDecrementsSameCycle : Prop :=
  ∀ (x : Nib) (s : State),
    (s.fetchInstr = .ok (.ldDtVx x) → ∃ t, step s = .next t ∧ t.dt.toNat = (s.reg x).toNat - 1) ∧
    (s.fetchInstr = .ok (.ldStVx x) → ∃ t, step s = .next t ∧ t.st.toNat = (s.reg x).toNat - 1 ∧
      (t.tone = true ↔ s.reg x = 1#8)) ∧
    (s.fetchInstr = .ok (.ldVxDt x) → ∃ t, step s = .next t ∧ t.reg x = s.dt ∧ t.dt.toNat = (t.reg x).toNat - 1)

/-- R201 (decisions D10, D24): with no key down, a successful cycle that writes nothing; with a key down, V[X] is the
code of a pressed key, the lowest one under the default KEY_SELECT. -/
def Obligations.KeyWaitStoresPressedCode : Prop :=
  (∀ x : Nib, decodeWord (BitVec.ofNat 16 (0xF00A + x.toNat * 0x100)) = .ok (.ldVxK x)) ∧
  (∀ (x : Nib) (s : State), (∀ c, Keys.pressed s.k c = false) →
    ∃ t, exec (.ldVxK x) s = .next t ∧ t.result = .ok ∧ KeepsAll s t) ∧
  (∀ (x c : Nib) (s : State), Keys.pressed s.k c = true →
    ∃ (t : State) (e : Nib), exec (.ldVxK x) s = .next t ∧ t.result = .ok ∧ Keys.pressed s.k e = true ∧
      (t.reg x).toNat = e.toNat ∧ (s.config.keySelect = .lowest → e.toNat ≤ c.toNat) ∧
      KeepsRegsBut [x] s t ∧ t.pc.toNat = (s.pc.toNat + 2) % 65536 ∧ KeepsAllButRegs s t)
end

