-- ==== Sys2Proof/Laws/Memory.lean ====
section
/-! SUPPORT. Memory as a canonical list: a read after a write, and the canonical form kept (10_state.md R28). -/

namespace Sys2Proof.Machine

variable {font : Vector Byte 80} {m : Memory}

/-- Addresses strictly rising: the half of the canonical form that does not speak of values. -/
abbrev Memory.Ascending (m : Memory) : Prop := m.Pairwise (fun c e => c.1 < e.1)

theorem Memory.lookup_place (a e : Nat) (w : Byte) :
    Memory.lookup (Memory.place m a w) e = if e = a then some w else Memory.lookup m e := by
  induction m with
  | nil => simp [Memory.place, Memory.lookup]
  | cons c m ih =>
    obtain ⟨b, u⟩ := c
    unfold Memory.place
    split
    · simp [Memory.lookup]
    · split
      · subst b
        simp only [Memory.lookup]
        split <;> rfl
      · rename_i _ hab
        simp only [Memory.lookup, ih]
        by_cases he : e = b
        · have : e ≠ a := fun h => hab (h.symm.trans he)
          simp [he, Ne.symm hab]
        · simp [he]

theorem Memory.lookup_remove (a e : Nat) :
    Memory.lookup (Memory.remove m a) e = if e = a then none else Memory.lookup m e := by
  induction m with
  | nil => simp [Memory.remove, Memory.lookup]
  | cons c m ih =>
    obtain ⟨b, u⟩ := c
    unfold Memory.remove
    split
    · subst b
      rw [ih]
      by_cases he : e = a <;> simp [Memory.lookup, he]
    · rename_i hab
      simp only [Memory.lookup, ih]
      by_cases he : e = b
      · simp [he, Ne.symm hab]
      · simp [he]

/-- A read after a write: the value written at its address, every other address as before. -/
theorem Memory.byte_put (a e : Nat) (w : Byte) :
    Memory.byte font (Memory.put font m a w) e = if e = a then w else Memory.byte font m e := by
  unfold Memory.byte Memory.put
  split
  · rename_i hw
    rw [Memory.lookup_remove]
    by_cases he : e = a
    · simp [he, hw]
    · simp [he]
  · rw [Memory.lookup_place]
    by_cases he : e = a <;> simp [he]

theorem Memory.mem_place {a : Nat} {w : Byte} {c : Host.Cell} (h : c ∈ Memory.place m a w) :
    c = (a, w) ∨ c ∈ m := by
  induction m with
  | nil => simpa [Memory.place] using h
  | cons e m ih =>
    obtain ⟨b, u⟩ := e
    unfold Memory.place at h
    split at h
    · simpa using h
    · split at h
      · rcases List.mem_cons.mp h with h | h
        · exact .inl h
        · exact .inr (List.mem_cons_of_mem _ h)
      · rcases List.mem_cons.mp h with h | h
        · exact .inr (by simp [h])
        · exact (ih h).imp_right (List.mem_cons_of_mem _)

theorem Memory.mem_remove {a : Nat} {c : Host.Cell} (h : c ∈ Memory.remove m a) : c ∈ m := by
  induction m with
  | nil => simp [Memory.remove] at h
  | cons e m ih =>
    obtain ⟨b, u⟩ := e
    unfold Memory.remove at h
    split at h
    · exact List.mem_cons_of_mem _ (ih h)
    · rcases List.mem_cons.mp h with h | h
      · simp [h]
      · exact List.mem_cons_of_mem _ (ih h)

theorem Memory.place_ascending (hm : Memory.Ascending m) (a : Nat) (w : Byte) :
    Memory.Ascending (Memory.place m a w) := by
  induction m with
  | nil => simp [Memory.place]
  | cons e m ih =>
    obtain ⟨b, u⟩ := e
    have hm' := List.pairwise_cons.mp hm
    unfold Memory.place
    split
    · rename_i hab
      refine List.pairwise_cons.mpr ⟨fun c hc => ?_, hm⟩
      rcases List.mem_cons.mp hc with rfl | hc
      · exact hab
      · exact Nat.lt_trans hab (hm'.1 c hc)
    · split
      · rename_i _ hab
        subst hab
        exact List.pairwise_cons.mpr ⟨hm'.1, hm'.2⟩
      · rename_i h1 h2
        refine List.pairwise_cons.mpr ⟨fun c hc => ?_, ih hm'.2⟩
        rcases Memory.mem_place hc with rfl | hc
        · exact Nat.lt_of_le_of_ne (Nat.le_of_not_lt h1) (Ne.symm h2)
        · exact hm'.1 c hc

theorem Memory.remove_ascending (hm : Memory.Ascending m) (a : Nat) : Memory.Ascending (Memory.remove m a) := by
  induction m with
  | nil => simp [Memory.remove]
  | cons e m ih =>
    obtain ⟨b, u⟩ := e
    have hm' := List.pairwise_cons.mp hm
    unfold Memory.remove
    split
    · exact ih hm'.2
    · exact List.pairwise_cons.mpr ⟨fun c hc => hm'.1 c (Memory.mem_remove hc), ih hm'.2⟩

/-- A write within the address space keeps the canonical form. -/
theorem Memory.put_wf (hm : Memory.wf font m) {a : Nat} (ha : a < 4096) (w : Byte) :
    Memory.wf font (Memory.put font m a w) := by
  unfold Memory.put
  split
  · exact ⟨Memory.remove_ascending hm.1 a, fun c hc => hm.2 c (Memory.mem_remove hc)⟩
  · rename_i hw
    refine ⟨Memory.place_ascending hm.1 a w, fun c hc => ?_⟩
    rcases Memory.mem_place hc with rfl | hc
    · exact ⟨ha, hw⟩
    · exact hm.2 c hc

/-- Reset memory, which lists nothing, is canonical. -/
theorem Memory.nil_wf : Memory.wf font [] := by simp [Memory.wf]

end Sys2Proof.Machine
end

