-- ==== Sys2Proof/Laws/State.lean ====
section
/-! SUPPORT. What each update of the state does to each field: one lemma per field per update, true by rfl. -/

namespace Sys2Proof.Machine

variable (s : State)

@[simp] theorem State.setReg_v (x : Nib) (b : Byte) : (s.setReg x b).v = s.v.set x.toNat b x.isLt := rfl
@[simp] theorem State.setReg_pc (x : Nib) (b : Byte) : (s.setReg x b).pc = s.pc := rfl
@[simp] theorem State.setReg_i (x : Nib) (b : Byte) : (s.setReg x b).i = s.i := rfl
@[simp] theorem State.setReg_stk (x : Nib) (b : Byte) : (s.setReg x b).stk = s.stk := rfl
@[simp] theorem State.setReg_dt (x : Nib) (b : Byte) : (s.setReg x b).dt = s.dt := rfl
@[simp] theorem State.setReg_st (x : Nib) (b : Byte) : (s.setReg x b).st = s.st := rfl
@[simp] theorem State.setReg_mem (x : Nib) (b : Byte) : (s.setReg x b).mem = s.mem := rfl
@[simp] theorem State.setReg_d (x : Nib) (b : Byte) : (s.setReg x b).d = s.d := rfl
@[simp] theorem State.setReg_k (x : Nib) (b : Byte) : (s.setReg x b).k = s.k := rfl
@[simp] theorem State.setReg_rand (x : Nib) (b : Byte) : (s.setReg x b).rand = s.rand := rfl
@[simp] theorem State.setReg_draws (x : Nib) (b : Byte) : (s.setReg x b).draws = s.draws := rfl
@[simp] theorem State.setReg_result (x : Nib) (b : Byte) : (s.setReg x b).result = s.result := rfl
@[simp] theorem State.setReg_tone (x : Nib) (b : Byte) : (s.setReg x b).tone = s.tone := rfl
@[simp] theorem State.setReg_config (x : Nib) (b : Byte) : (s.setReg x b).config = s.config := rfl

@[simp] theorem State.setPc_v (w : Word16) : (s.setPc w).v = s.v := rfl
@[simp] theorem State.setPc_pc (w : Word16) : (s.setPc w).pc = w := rfl
@[simp] theorem State.setPc_i (w : Word16) : (s.setPc w).i = s.i := rfl
@[simp] theorem State.setPc_stk (w : Word16) : (s.setPc w).stk = s.stk := rfl
@[simp] theorem State.setPc_dt (w : Word16) : (s.setPc w).dt = s.dt := rfl
@[simp] theorem State.setPc_st (w : Word16) : (s.setPc w).st = s.st := rfl
@[simp] theorem State.setPc_mem (w : Word16) : (s.setPc w).mem = s.mem := rfl
@[simp] theorem State.setPc_d (w : Word16) : (s.setPc w).d = s.d := rfl
@[simp] theorem State.setPc_k (w : Word16) : (s.setPc w).k = s.k := rfl
@[simp] theorem State.setPc_rand (w : Word16) : (s.setPc w).rand = s.rand := rfl
@[simp] theorem State.setPc_draws (w : Word16) : (s.setPc w).draws = s.draws := rfl
@[simp] theorem State.setPc_result (w : Word16) : (s.setPc w).result = s.result := rfl
@[simp] theorem State.setPc_tone (w : Word16) : (s.setPc w).tone = s.tone := rfl
@[simp] theorem State.setPc_config (w : Word16) : (s.setPc w).config = s.config := rfl

@[simp] theorem State.setI_v (w : Word16) : (s.setI w).v = s.v := rfl
@[simp] theorem State.setI_pc (w : Word16) : (s.setI w).pc = s.pc := rfl
@[simp] theorem State.setI_i (w : Word16) : (s.setI w).i = w := rfl
@[simp] theorem State.setI_stk (w : Word16) : (s.setI w).stk = s.stk := rfl
@[simp] theorem State.setI_dt (w : Word16) : (s.setI w).dt = s.dt := rfl
@[simp] theorem State.setI_st (w : Word16) : (s.setI w).st = s.st := rfl
@[simp] theorem State.setI_mem (w : Word16) : (s.setI w).mem = s.mem := rfl
@[simp] theorem State.setI_d (w : Word16) : (s.setI w).d = s.d := rfl
@[simp] theorem State.setI_k (w : Word16) : (s.setI w).k = s.k := rfl
@[simp] theorem State.setI_rand (w : Word16) : (s.setI w).rand = s.rand := rfl
@[simp] theorem State.setI_draws (w : Word16) : (s.setI w).draws = s.draws := rfl
@[simp] theorem State.setI_result (w : Word16) : (s.setI w).result = s.result := rfl
@[simp] theorem State.setI_tone (w : Word16) : (s.setI w).tone = s.tone := rfl
@[simp] theorem State.setI_config (w : Word16) : (s.setI w).config = s.config := rfl

@[simp] theorem State.setStk_v (l : List Word16) : (s.setStk l).v = s.v := rfl
@[simp] theorem State.setStk_pc (l : List Word16) : (s.setStk l).pc = s.pc := rfl
@[simp] theorem State.setStk_i (l : List Word16) : (s.setStk l).i = s.i := rfl
@[simp] theorem State.setStk_stk (l : List Word16) : (s.setStk l).stk = l := rfl
@[simp] theorem State.setStk_dt (l : List Word16) : (s.setStk l).dt = s.dt := rfl
@[simp] theorem State.setStk_st (l : List Word16) : (s.setStk l).st = s.st := rfl
@[simp] theorem State.setStk_mem (l : List Word16) : (s.setStk l).mem = s.mem := rfl
@[simp] theorem State.setStk_d (l : List Word16) : (s.setStk l).d = s.d := rfl
@[simp] theorem State.setStk_k (l : List Word16) : (s.setStk l).k = s.k := rfl
@[simp] theorem State.setStk_rand (l : List Word16) : (s.setStk l).rand = s.rand := rfl
@[simp] theorem State.setStk_draws (l : List Word16) : (s.setStk l).draws = s.draws := rfl
@[simp] theorem State.setStk_result (l : List Word16) : (s.setStk l).result = s.result := rfl
@[simp] theorem State.setStk_tone (l : List Word16) : (s.setStk l).tone = s.tone := rfl
@[simp] theorem State.setStk_config (l : List Word16) : (s.setStk l).config = s.config := rfl

@[simp] theorem State.setDt_v (b : Byte) : (s.setDt b).v = s.v := rfl
@[simp] theorem State.setDt_pc (b : Byte) : (s.setDt b).pc = s.pc := rfl
@[simp] theorem State.setDt_i (b : Byte) : (s.setDt b).i = s.i := rfl
@[simp] theorem State.setDt_stk (b : Byte) : (s.setDt b).stk = s.stk := rfl
@[simp] theorem State.setDt_dt (b : Byte) : (s.setDt b).dt = b := rfl
@[simp] theorem State.setDt_st (b : Byte) : (s.setDt b).st = s.st := rfl
@[simp] theorem State.setDt_mem (b : Byte) : (s.setDt b).mem = s.mem := rfl
@[simp] theorem State.setDt_d (b : Byte) : (s.setDt b).d = s.d := rfl
@[simp] theorem State.setDt_k (b : Byte) : (s.setDt b).k = s.k := rfl
@[simp] theorem State.setDt_rand (b : Byte) : (s.setDt b).rand = s.rand := rfl
@[simp] theorem State.setDt_draws (b : Byte) : (s.setDt b).draws = s.draws := rfl
@[simp] theorem State.setDt_result (b : Byte) : (s.setDt b).result = s.result := rfl
@[simp] theorem State.setDt_tone (b : Byte) : (s.setDt b).tone = s.tone := rfl
@[simp] theorem State.setDt_config (b : Byte) : (s.setDt b).config = s.config := rfl

@[simp] theorem State.setSt_v (b : Byte) : (s.setSt b).v = s.v := rfl
@[simp] theorem State.setSt_pc (b : Byte) : (s.setSt b).pc = s.pc := rfl
@[simp] theorem State.setSt_i (b : Byte) : (s.setSt b).i = s.i := rfl
@[simp] theorem State.setSt_stk (b : Byte) : (s.setSt b).stk = s.stk := rfl
@[simp] theorem State.setSt_dt (b : Byte) : (s.setSt b).dt = s.dt := rfl
@[simp] theorem State.setSt_st (b : Byte) : (s.setSt b).st = b := rfl
@[simp] theorem State.setSt_mem (b : Byte) : (s.setSt b).mem = s.mem := rfl
@[simp] theorem State.setSt_d (b : Byte) : (s.setSt b).d = s.d := rfl
@[simp] theorem State.setSt_k (b : Byte) : (s.setSt b).k = s.k := rfl
@[simp] theorem State.setSt_rand (b : Byte) : (s.setSt b).rand = s.rand := rfl
@[simp] theorem State.setSt_draws (b : Byte) : (s.setSt b).draws = s.draws := rfl
@[simp] theorem State.setSt_result (b : Byte) : (s.setSt b).result = s.result := rfl
@[simp] theorem State.setSt_tone (b : Byte) : (s.setSt b).tone = s.tone := rfl
@[simp] theorem State.setSt_config (b : Byte) : (s.setSt b).config = s.config := rfl

@[simp] theorem State.setMem_v (m : Memory) : (s.setMem m).v = s.v := rfl
@[simp] theorem State.setMem_pc (m : Memory) : (s.setMem m).pc = s.pc := rfl
@[simp] theorem State.setMem_i (m : Memory) : (s.setMem m).i = s.i := rfl
@[simp] theorem State.setMem_stk (m : Memory) : (s.setMem m).stk = s.stk := rfl
@[simp] theorem State.setMem_dt (m : Memory) : (s.setMem m).dt = s.dt := rfl
@[simp] theorem State.setMem_st (m : Memory) : (s.setMem m).st = s.st := rfl
@[simp] theorem State.setMem_mem (m : Memory) : (s.setMem m).mem = m := rfl
@[simp] theorem State.setMem_d (m : Memory) : (s.setMem m).d = s.d := rfl
@[simp] theorem State.setMem_k (m : Memory) : (s.setMem m).k = s.k := rfl
@[simp] theorem State.setMem_rand (m : Memory) : (s.setMem m).rand = s.rand := rfl
@[simp] theorem State.setMem_draws (m : Memory) : (s.setMem m).draws = s.draws := rfl
@[simp] theorem State.setMem_result (m : Memory) : (s.setMem m).result = s.result := rfl
@[simp] theorem State.setMem_tone (m : Memory) : (s.setMem m).tone = s.tone := rfl
@[simp] theorem State.setMem_config (m : Memory) : (s.setMem m).config = s.config := rfl

@[simp] theorem State.setDisplay_v (e : Display) : (s.setDisplay e).v = s.v := rfl
@[simp] theorem State.setDisplay_pc (e : Display) : (s.setDisplay e).pc = s.pc := rfl
@[simp] theorem State.setDisplay_i (e : Display) : (s.setDisplay e).i = s.i := rfl
@[simp] theorem State.setDisplay_stk (e : Display) : (s.setDisplay e).stk = s.stk := rfl
@[simp] theorem State.setDisplay_dt (e : Display) : (s.setDisplay e).dt = s.dt := rfl
@[simp] theorem State.setDisplay_st (e : Display) : (s.setDisplay e).st = s.st := rfl
@[simp] theorem State.setDisplay_mem (e : Display) : (s.setDisplay e).mem = s.mem := rfl
@[simp] theorem State.setDisplay_d (e : Display) : (s.setDisplay e).d = e := rfl
@[simp] theorem State.setDisplay_k (e : Display) : (s.setDisplay e).k = s.k := rfl
@[simp] theorem State.setDisplay_rand (e : Display) : (s.setDisplay e).rand = s.rand := rfl
@[simp] theorem State.setDisplay_draws (e : Display) : (s.setDisplay e).draws = s.draws := rfl
@[simp] theorem State.setDisplay_result (e : Display) : (s.setDisplay e).result = s.result := rfl
@[simp] theorem State.setDisplay_tone (e : Display) : (s.setDisplay e).tone = s.tone := rfl
@[simp] theorem State.setDisplay_config (e : Display) : (s.setDisplay e).config = s.config := rfl

@[simp] theorem State.setKeys_v (l : Keys) : (s.setKeys l).v = s.v := rfl
@[simp] theorem State.setKeys_pc (l : Keys) : (s.setKeys l).pc = s.pc := rfl
@[simp] theorem State.setKeys_i (l : Keys) : (s.setKeys l).i = s.i := rfl
@[simp] theorem State.setKeys_stk (l : Keys) : (s.setKeys l).stk = s.stk := rfl
@[simp] theorem State.setKeys_dt (l : Keys) : (s.setKeys l).dt = s.dt := rfl
@[simp] theorem State.setKeys_st (l : Keys) : (s.setKeys l).st = s.st := rfl
@[simp] theorem State.setKeys_mem (l : Keys) : (s.setKeys l).mem = s.mem := rfl
@[simp] theorem State.setKeys_d (l : Keys) : (s.setKeys l).d = s.d := rfl
@[simp] theorem State.setKeys_k (l : Keys) : (s.setKeys l).k = l := rfl
@[simp] theorem State.setKeys_rand (l : Keys) : (s.setKeys l).rand = s.rand := rfl
@[simp] theorem State.setKeys_draws (l : Keys) : (s.setKeys l).draws = s.draws := rfl
@[simp] theorem State.setKeys_result (l : Keys) : (s.setKeys l).result = s.result := rfl
@[simp] theorem State.setKeys_tone (l : Keys) : (s.setKeys l).tone = s.tone := rfl
@[simp] theorem State.setKeys_config (l : Keys) : (s.setKeys l).config = s.config := rfl

@[simp] theorem State.setRand_v (b : Byte) : (s.setRand b).v = s.v := rfl
@[simp] theorem State.setRand_pc (b : Byte) : (s.setRand b).pc = s.pc := rfl
@[simp] theorem State.setRand_i (b : Byte) : (s.setRand b).i = s.i := rfl
@[simp] theorem State.setRand_stk (b : Byte) : (s.setRand b).stk = s.stk := rfl
@[simp] theorem State.setRand_dt (b : Byte) : (s.setRand b).dt = s.dt := rfl
@[simp] theorem State.setRand_st (b : Byte) : (s.setRand b).st = s.st := rfl
@[simp] theorem State.setRand_mem (b : Byte) : (s.setRand b).mem = s.mem := rfl
@[simp] theorem State.setRand_d (b : Byte) : (s.setRand b).d = s.d := rfl
@[simp] theorem State.setRand_k (b : Byte) : (s.setRand b).k = s.k := rfl
@[simp] theorem State.setRand_rand (b : Byte) : (s.setRand b).rand = b := rfl
@[simp] theorem State.setRand_draws (b : Byte) : (s.setRand b).draws = s.draws := rfl
@[simp] theorem State.setRand_result (b : Byte) : (s.setRand b).result = s.result := rfl
@[simp] theorem State.setRand_tone (b : Byte) : (s.setRand b).tone = s.tone := rfl
@[simp] theorem State.setRand_config (b : Byte) : (s.setRand b).config = s.config := rfl

@[simp] theorem State.setResult_v (r : CycleResult) : (s.setResult r).v = s.v := rfl
@[simp] theorem State.setResult_pc (r : CycleResult) : (s.setResult r).pc = s.pc := rfl
@[simp] theorem State.setResult_i (r : CycleResult) : (s.setResult r).i = s.i := rfl
@[simp] theorem State.setResult_stk (r : CycleResult) : (s.setResult r).stk = s.stk := rfl
@[simp] theorem State.setResult_dt (r : CycleResult) : (s.setResult r).dt = s.dt := rfl
@[simp] theorem State.setResult_st (r : CycleResult) : (s.setResult r).st = s.st := rfl
@[simp] theorem State.setResult_mem (r : CycleResult) : (s.setResult r).mem = s.mem := rfl
@[simp] theorem State.setResult_d (r : CycleResult) : (s.setResult r).d = s.d := rfl
@[simp] theorem State.setResult_k (r : CycleResult) : (s.setResult r).k = s.k := rfl
@[simp] theorem State.setResult_rand (r : CycleResult) : (s.setResult r).rand = s.rand := rfl
@[simp] theorem State.setResult_draws (r : CycleResult) : (s.setResult r).draws = s.draws := rfl
@[simp] theorem State.setResult_result (r : CycleResult) : (s.setResult r).result = r := rfl
@[simp] theorem State.setResult_tone (r : CycleResult) : (s.setResult r).tone = s.tone := rfl
@[simp] theorem State.setResult_config (r : CycleResult) : (s.setResult r).config = s.config := rfl

@[simp] theorem State.setTone_v (b : Bool) : (s.setTone b).v = s.v := rfl
@[simp] theorem State.setTone_pc (b : Bool) : (s.setTone b).pc = s.pc := rfl
@[simp] theorem State.setTone_i (b : Bool) : (s.setTone b).i = s.i := rfl
@[simp] theorem State.setTone_stk (b : Bool) : (s.setTone b).stk = s.stk := rfl
@[simp] theorem State.setTone_dt (b : Bool) : (s.setTone b).dt = s.dt := rfl
@[simp] theorem State.setTone_st (b : Bool) : (s.setTone b).st = s.st := rfl
@[simp] theorem State.setTone_mem (b : Bool) : (s.setTone b).mem = s.mem := rfl
@[simp] theorem State.setTone_d (b : Bool) : (s.setTone b).d = s.d := rfl
@[simp] theorem State.setTone_k (b : Bool) : (s.setTone b).k = s.k := rfl
@[simp] theorem State.setTone_rand (b : Bool) : (s.setTone b).rand = s.rand := rfl
@[simp] theorem State.setTone_draws (b : Bool) : (s.setTone b).draws = s.draws := rfl
@[simp] theorem State.setTone_result (b : Bool) : (s.setTone b).result = s.result := rfl
@[simp] theorem State.setTone_tone (b : Bool) : (s.setTone b).tone = b := rfl
@[simp] theorem State.setTone_config (b : Bool) : (s.setTone b).config = s.config := rfl

@[simp] theorem State.nextInput_v : s.nextInput.v = s.v := rfl
@[simp] theorem State.nextInput_pc : s.nextInput.pc = s.pc := rfl
@[simp] theorem State.nextInput_i : s.nextInput.i = s.i := rfl
@[simp] theorem State.nextInput_stk : s.nextInput.stk = s.stk := rfl
@[simp] theorem State.nextInput_dt : s.nextInput.dt = s.dt := rfl
@[simp] theorem State.nextInput_st : s.nextInput.st = s.st := rfl
@[simp] theorem State.nextInput_mem : s.nextInput.mem = s.mem := rfl
@[simp] theorem State.nextInput_d : s.nextInput.d = s.d := rfl
@[simp] theorem State.nextInput_k : s.nextInput.k = s.k := rfl
@[simp] theorem State.nextInput_rand : s.nextInput.rand = Config.randByte s.draws := rfl
@[simp] theorem State.nextInput_draws : s.nextInput.draws = s.draws + 1 := rfl
@[simp] theorem State.nextInput_result : s.nextInput.result = s.result := rfl
@[simp] theorem State.nextInput_tone : s.nextInput.tone = s.tone := rfl
@[simp] theorem State.nextInput_config : s.nextInput.config = s.config := rfl

@[simp] theorem State.timerStep_v : s.timerStep.v = s.v := rfl
@[simp] theorem State.timerStep_pc : s.timerStep.pc = s.pc := rfl
@[simp] theorem State.timerStep_i : s.timerStep.i = s.i := rfl
@[simp] theorem State.timerStep_stk : s.timerStep.stk = s.stk := rfl
@[simp] theorem State.timerStep_dt : s.timerStep.dt = countDown s.dt := rfl
@[simp] theorem State.timerStep_st : s.timerStep.st = countDown s.st := rfl
@[simp] theorem State.timerStep_mem : s.timerStep.mem = s.mem := rfl
@[simp] theorem State.timerStep_d : s.timerStep.d = s.d := rfl
@[simp] theorem State.timerStep_k : s.timerStep.k = s.k := rfl
@[simp] theorem State.timerStep_rand : s.timerStep.rand = s.rand := rfl
@[simp] theorem State.timerStep_draws : s.timerStep.draws = s.draws := rfl
@[simp] theorem State.timerStep_result : s.timerStep.result = s.result := rfl
@[simp] theorem State.timerStep_tone : s.timerStep.tone = (s.st == 1#8) := rfl
@[simp] theorem State.timerStep_config : s.timerStep.config = s.config := rfl

@[simp] theorem State.endCycle_v : s.endCycle.v = s.v := rfl
@[simp] theorem State.endCycle_pc : s.endCycle.pc = s.pc := rfl
@[simp] theorem State.endCycle_i : s.endCycle.i = s.i := rfl
@[simp] theorem State.endCycle_stk : s.endCycle.stk = s.stk := rfl
@[simp] theorem State.endCycle_dt : s.endCycle.dt = countDown s.dt := rfl
@[simp] theorem State.endCycle_st : s.endCycle.st = countDown s.st := rfl
@[simp] theorem State.endCycle_mem : s.endCycle.mem = s.mem := rfl
@[simp] theorem State.endCycle_d : s.endCycle.d = s.d := rfl
@[simp] theorem State.endCycle_k : s.endCycle.k = s.k := rfl
@[simp] theorem State.endCycle_rand : s.endCycle.rand = Config.randByte s.draws := rfl
@[simp] theorem State.endCycle_draws : s.endCycle.draws = s.draws + 1 := rfl
@[simp] theorem State.endCycle_result : s.endCycle.result = s.result := rfl
@[simp] theorem State.endCycle_tone : s.endCycle.tone = (s.st == 1#8) := rfl
@[simp] theorem State.endCycle_config : s.endCycle.config = s.config := rfl

@[simp] theorem State.advance_v : s.advance.v = s.v := rfl
@[simp] theorem State.advance_pc : s.advance.pc = s.pc + 2#16 := rfl
@[simp] theorem State.advance_i : s.advance.i = s.i := rfl
@[simp] theorem State.advance_stk : s.advance.stk = s.stk := rfl
@[simp] theorem State.advance_dt : s.advance.dt = s.dt := rfl
@[simp] theorem State.advance_st : s.advance.st = s.st := rfl
@[simp] theorem State.advance_mem : s.advance.mem = s.mem := rfl
@[simp] theorem State.advance_d : s.advance.d = s.d := rfl
@[simp] theorem State.advance_k : s.advance.k = s.k := rfl
@[simp] theorem State.advance_rand : s.advance.rand = s.rand := rfl
@[simp] theorem State.advance_draws : s.advance.draws = s.draws := rfl
@[simp] theorem State.advance_result : s.advance.result = s.result := rfl
@[simp] theorem State.advance_tone : s.advance.tone = s.tone := rfl
@[simp] theorem State.advance_config : s.advance.config = s.config := rfl

@[simp] theorem State.putByte_v (a : Nat) (w : Byte) : (s.putByte a w).v = s.v := rfl
@[simp] theorem State.putByte_pc (a : Nat) (w : Byte) : (s.putByte a w).pc = s.pc := rfl
@[simp] theorem State.putByte_i (a : Nat) (w : Byte) : (s.putByte a w).i = s.i := rfl
@[simp] theorem State.putByte_stk (a : Nat) (w : Byte) : (s.putByte a w).stk = s.stk := rfl
@[simp] theorem State.putByte_dt (a : Nat) (w : Byte) : (s.putByte a w).dt = s.dt := rfl
@[simp] theorem State.putByte_st (a : Nat) (w : Byte) : (s.putByte a w).st = s.st := rfl
@[simp] theorem State.putByte_mem (a : Nat) (w : Byte) : (s.putByte a w).mem = Memory.put s.config.font s.mem a w := rfl
@[simp] theorem State.putByte_d (a : Nat) (w : Byte) : (s.putByte a w).d = s.d := rfl
@[simp] theorem State.putByte_k (a : Nat) (w : Byte) : (s.putByte a w).k = s.k := rfl
@[simp] theorem State.putByte_rand (a : Nat) (w : Byte) : (s.putByte a w).rand = s.rand := rfl
@[simp] theorem State.putByte_draws (a : Nat) (w : Byte) : (s.putByte a w).draws = s.draws := rfl
@[simp] theorem State.putByte_result (a : Nat) (w : Byte) : (s.putByte a w).result = s.result := rfl
@[simp] theorem State.putByte_tone (a : Nat) (w : Byte) : (s.putByte a w).tone = s.tone := rfl
@[simp] theorem State.putByte_config (a : Nat) (w : Byte) : (s.putByte a w).config = s.config := rfl

@[simp] theorem State.skipIf_v (c : Bool) : (s.skipIf c).v = s.v := by cases c <;> rfl
@[simp] theorem State.skipIf_pc (c : Bool) : (s.skipIf c).pc = if c then s.pc + 4#16 else s.pc + 2#16 := by
  cases c <;> rfl
@[simp] theorem State.skipIf_i (c : Bool) : (s.skipIf c).i = s.i := by cases c <;> rfl
@[simp] theorem State.skipIf_stk (c : Bool) : (s.skipIf c).stk = s.stk := by cases c <;> rfl
@[simp] theorem State.skipIf_dt (c : Bool) : (s.skipIf c).dt = s.dt := by cases c <;> rfl
@[simp] theorem State.skipIf_st (c : Bool) : (s.skipIf c).st = s.st := by cases c <;> rfl
@[simp] theorem State.skipIf_mem (c : Bool) : (s.skipIf c).mem = s.mem := by cases c <;> rfl
@[simp] theorem State.skipIf_d (c : Bool) : (s.skipIf c).d = s.d := by cases c <;> rfl
@[simp] theorem State.skipIf_k (c : Bool) : (s.skipIf c).k = s.k := by cases c <;> rfl
@[simp] theorem State.skipIf_rand (c : Bool) : (s.skipIf c).rand = s.rand := by cases c <;> rfl
@[simp] theorem State.skipIf_draws (c : Bool) : (s.skipIf c).draws = s.draws := by cases c <;> rfl
@[simp] theorem State.skipIf_result (c : Bool) : (s.skipIf c).result = s.result := by cases c <;> rfl
@[simp] theorem State.skipIf_tone (c : Bool) : (s.skipIf c).tone = s.tone := by cases c <;> rfl
@[simp] theorem State.skipIf_config (c : Bool) : (s.skipIf c).config = s.config := by cases c <;> rfl

/-! ### The three views of a state under the updates that do not touch them -/

@[simp] theorem State.reg_setPc (w : Word16) (x : Nib) : (s.setPc w).reg x = s.reg x := rfl
@[simp] theorem State.reg_setI (w : Word16) (x : Nib) : (s.setI w).reg x = s.reg x := rfl
@[simp] theorem State.reg_setStk (l : List Word16) (x : Nib) : (s.setStk l).reg x = s.reg x := rfl
@[simp] theorem State.reg_setDt (b : Byte) (x : Nib) : (s.setDt b).reg x = s.reg x := rfl
@[simp] theorem State.reg_setSt (b : Byte) (x : Nib) : (s.setSt b).reg x = s.reg x := rfl
@[simp] theorem State.reg_setMem (m : Memory) (x : Nib) : (s.setMem m).reg x = s.reg x := rfl
@[simp] theorem State.reg_setDisplay (e : Display) (x : Nib) : (s.setDisplay e).reg x = s.reg x := rfl
@[simp] theorem State.reg_setKeys (l : Keys) (x : Nib) : (s.setKeys l).reg x = s.reg x := rfl
@[simp] theorem State.reg_setRand (b : Byte) (x : Nib) : (s.setRand b).reg x = s.reg x := rfl
@[simp] theorem State.reg_setResult (r : CycleResult) (x : Nib) : (s.setResult r).reg x = s.reg x := rfl
@[simp] theorem State.reg_setTone (b : Bool) (x : Nib) : (s.setTone b).reg x = s.reg x := rfl
@[simp] theorem State.reg_putByte (a : Nat) (w : Byte) (x : Nib) : (s.putByte a w).reg x = s.reg x := rfl
@[simp] theorem State.reg_advance (x : Nib) : s.advance.reg x = s.reg x := rfl
@[simp] theorem State.reg_timerStep (x : Nib) : s.timerStep.reg x = s.reg x := rfl
@[simp] theorem State.reg_nextInput (x : Nib) : s.nextInput.reg x = s.reg x := rfl
@[simp] theorem State.reg_endCycle (x : Nib) : s.endCycle.reg x = s.reg x := rfl
@[simp] theorem State.reg_skipIf (c : Bool) (x : Nib) : (s.skipIf c).reg x = s.reg x := by
  cases c <;> rfl

@[simp] theorem State.byteAt_setPc (w : Word16) (e : Nat) : (s.setPc w).byteAt e = s.byteAt e := rfl
@[simp] theorem State.byteAt_setI (w : Word16) (e : Nat) : (s.setI w).byteAt e = s.byteAt e := rfl
@[simp] theorem State.byteAt_setStk (l : List Word16) (e : Nat) : (s.setStk l).byteAt e = s.byteAt e := rfl
@[simp] theorem State.byteAt_setDt (b : Byte) (e : Nat) : (s.setDt b).byteAt e = s.byteAt e := rfl
@[simp] theorem State.byteAt_setSt (b : Byte) (e : Nat) : (s.setSt b).byteAt e = s.byteAt e := rfl
@[simp] theorem State.byteAt_setDisplay (g : Display) (e : Nat) : (s.setDisplay g).byteAt e = s.byteAt e := rfl
@[simp] theorem State.byteAt_setKeys (l : Keys) (e : Nat) : (s.setKeys l).byteAt e = s.byteAt e := rfl
@[simp] theorem State.byteAt_setRand (b : Byte) (e : Nat) : (s.setRand b).byteAt e = s.byteAt e := rfl
@[simp] theorem State.byteAt_setResult (r : CycleResult) (e : Nat) : (s.setResult r).byteAt e = s.byteAt e := rfl
@[simp] theorem State.byteAt_setTone (b : Bool) (e : Nat) : (s.setTone b).byteAt e = s.byteAt e := rfl
@[simp] theorem State.byteAt_setReg (q : Nib) (b : Byte) (e : Nat) : (s.setReg q b).byteAt e = s.byteAt e := rfl
@[simp] theorem State.byteAt_advance (e : Nat) : s.advance.byteAt e = s.byteAt e := rfl
@[simp] theorem State.byteAt_timerStep (e : Nat) : s.timerStep.byteAt e = s.byteAt e := rfl
@[simp] theorem State.byteAt_nextInput (e : Nat) : s.nextInput.byteAt e = s.byteAt e := rfl
@[simp] theorem State.byteAt_endCycle (e : Nat) : s.endCycle.byteAt e = s.byteAt e := rfl
@[simp] theorem State.byteAt_skipIf (c : Bool) (e : Nat) : (s.skipIf c).byteAt e = s.byteAt e := by
  cases c <;> rfl

@[simp] theorem State.pixel_setPc (w : Word16) (x : Fin 64) (y : Fin 32) : (s.setPc w).pixel x y = s.pixel x y := rfl
@[simp] theorem State.pixel_setI (w : Word16) (x : Fin 64) (y : Fin 32) : (s.setI w).pixel x y = s.pixel x y := rfl
@[simp] theorem State.pixel_setStk (l : List Word16) (x : Fin 64) (y : Fin 32) : (s.setStk l).pixel x y = s.pixel x y := rfl
@[simp] theorem State.pixel_setDt (b : Byte) (x : Fin 64) (y : Fin 32) : (s.setDt b).pixel x y = s.pixel x y := rfl
@[simp] theorem State.pixel_setSt (b : Byte) (x : Fin 64) (y : Fin 32) : (s.setSt b).pixel x y = s.pixel x y := rfl
@[simp] theorem State.pixel_setMem (m : Memory) (x : Fin 64) (y : Fin 32) : (s.setMem m).pixel x y = s.pixel x y := rfl
@[simp] theorem State.pixel_setKeys (l : Keys) (x : Fin 64) (y : Fin 32) : (s.setKeys l).pixel x y = s.pixel x y := rfl
@[simp] theorem State.pixel_setRand (b : Byte) (x : Fin 64) (y : Fin 32) : (s.setRand b).pixel x y = s.pixel x y := rfl
@[simp] theorem State.pixel_setResult (r : CycleResult) (x : Fin 64) (y : Fin 32) : (s.setResult r).pixel x y = s.pixel x y := rfl
@[simp] theorem State.pixel_setTone (b : Bool) (x : Fin 64) (y : Fin 32) : (s.setTone b).pixel x y = s.pixel x y := rfl
@[simp] theorem State.pixel_putByte (a : Nat) (w : Byte) (x : Fin 64) (y : Fin 32) : (s.putByte a w).pixel x y = s.pixel x y := rfl
@[simp] theorem State.pixel_setReg (q : Nib) (b : Byte) (x : Fin 64) (y : Fin 32) : (s.setReg q b).pixel x y = s.pixel x y := rfl
@[simp] theorem State.pixel_advance (x : Fin 64) (y : Fin 32) : s.advance.pixel x y = s.pixel x y := rfl
@[simp] theorem State.pixel_timerStep (x : Fin 64) (y : Fin 32) : s.timerStep.pixel x y = s.pixel x y := rfl
@[simp] theorem State.pixel_nextInput (x : Fin 64) (y : Fin 32) : s.nextInput.pixel x y = s.pixel x y := rfl
@[simp] theorem State.pixel_endCycle (x : Fin 64) (y : Fin 32) : s.endCycle.pixel x y = s.pixel x y := rfl
@[simp] theorem State.pixel_skipIf (c : Bool) (x : Fin 64) (y : Fin 32) : (s.skipIf c).pixel x y = s.pixel x y := by
  cases c <;> rfl

end Sys2Proof.Machine
end

