-- ==== Sys2Proof/Laws/Ops.lean ====
section
/-! SUPPORT. One lemma per shared operation, saying everything it can do. -/

namespace Sys2Proof.Machine

variable {s t : State}

/-! ### Registers -/

/-- A register read after a register write. -/
@[simp] theorem State.reg_setReg (x y : Nib) (b : Byte) :
    (s.setReg x b).reg y = if y = x then b else s.reg y := by
  unfold State.reg
  simp only [State.setReg_v, Vector.getElem_set]
  by_cases h : y = x
  · simp [h]
  · have : x.toNat ≠ y.toNat := fun e => h (BitVec.eq_of_toNat_eq e.symm)
    simp [h, this]

@[simp] theorem State.setRegs_zero (f : Nat → Byte) : s.setRegs 0 f = s := rfl

theorem State.setRegs_succ (n : Nat) (f : Nat → Byte) :
    s.setRegs (n + 1) f = (s.setRegs n f).setReg (BitVec.ofNat 4 n) (f n) := by
  simp [State.setRegs, List.range_succ]

/-- A block of registers written from V[0] upward. -/
theorem State.reg_setRegs {n : Nat} (hn : n ≤ 16) (f : Nat → Byte) (y : Nib) :
    (s.setRegs n f).reg y = if y.toNat < n then f y.toNat else s.reg y := by
  induction n with
  | zero => simp
  | succ n ih =>
    rw [State.setRegs_succ, State.reg_setReg, ih (by omega)]
    have hy : y = BitVec.ofNat 4 n ↔ y.toNat = n := by
      constructor
      · rintro rfl; simp; omega
      · intro h; apply BitVec.eq_of_toNat_eq; simp; omega
    by_cases h : y.toNat = n
    · rw [if_pos (hy.mpr h), if_pos (by omega), h]
    · have h' : y ≠ BitVec.ofNat 4 n := fun e => h (hy.mp e)
      simp only [h', if_false]
      by_cases hlt : y.toNat < n
      · simp [hlt, Nat.lt_succ_of_lt hlt]
      · have : ¬ y.toNat < n + 1 := by omega
        simp [hlt, this]

/-- Writing registers touches nothing but registers. -/
theorem State.setRegs_eq (n : Nat) (f : Nat → Byte) : s.setRegs n f = { s with v := (s.setRegs n f).v } := by
  induction n with
  | zero => rfl
  | succ n ih => rw [State.setRegs_succ, ih]; rfl

@[simp] theorem State.setRegs_pc (n : Nat) (f : Nat → Byte) : (s.setRegs n f).pc = s.pc := by
  rw [State.setRegs_eq]
@[simp] theorem State.setRegs_i (n : Nat) (f : Nat → Byte) : (s.setRegs n f).i = s.i := by
  rw [State.setRegs_eq]
@[simp] theorem State.setRegs_stk (n : Nat) (f : Nat → Byte) : (s.setRegs n f).stk = s.stk := by
  rw [State.setRegs_eq]
@[simp] theorem State.setRegs_dt (n : Nat) (f : Nat → Byte) : (s.setRegs n f).dt = s.dt := by
  rw [State.setRegs_eq]
@[simp] theorem State.setRegs_st (n : Nat) (f : Nat → Byte) : (s.setRegs n f).st = s.st := by
  rw [State.setRegs_eq]
@[simp] theorem State.setRegs_mem (n : Nat) (f : Nat → Byte) : (s.setRegs n f).mem = s.mem := by
  rw [State.setRegs_eq]
@[simp] theorem State.setRegs_d (n : Nat) (f : Nat → Byte) : (s.setRegs n f).d = s.d := by
  rw [State.setRegs_eq]
@[simp] theorem State.setRegs_k (n : Nat) (f : Nat → Byte) : (s.setRegs n f).k = s.k := by
  rw [State.setRegs_eq]
@[simp] theorem State.setRegs_rand (n : Nat) (f : Nat → Byte) : (s.setRegs n f).rand = s.rand := by
  rw [State.setRegs_eq]
@[simp] theorem State.setRegs_draws (n : Nat) (f : Nat → Byte) : (s.setRegs n f).draws = s.draws := by
  rw [State.setRegs_eq]
@[simp] theorem State.setRegs_result (n : Nat) (f : Nat → Byte) : (s.setRegs n f).result = s.result := by
  rw [State.setRegs_eq]
@[simp] theorem State.setRegs_tone (n : Nat) (f : Nat → Byte) : (s.setRegs n f).tone = s.tone := by
  rw [State.setRegs_eq]
@[simp] theorem State.setRegs_config (n : Nat) (f : Nat → Byte) : (s.setRegs n f).config = s.config := by
  rw [State.setRegs_eq]
@[simp] theorem State.byteAt_setRegs (n : Nat) (f : Nat → Byte) (e : Nat) : (s.setRegs n f).byteAt e = s.byteAt e := by
  rw [State.setRegs_eq]; rfl
@[simp] theorem State.pixel_setRegs (n : Nat) (f : Nat → Byte) (x : Fin 64) (y : Fin 32) :
    (s.setRegs n f).pixel x y = s.pixel x y := by
  rw [State.setRegs_eq]; rfl

/-! ### Memory -/

/-- A byte read after a byte write. -/
@[simp] theorem State.byteAt_putByte (a e : Nat) (w : Byte) :
    (s.putByte a w).byteAt e = if e = a then w else s.byteAt e := Memory.byte_put a e w

/-- Storing bytes touches nothing but memory. -/
theorem State.storeBytes_eq (base : Nat) (l : List Byte) :
    s.storeBytes base l = { s with mem := (s.storeBytes base l).mem } := by
  induction l generalizing base s with
  | nil => rfl
  | cons w l ih => unfold State.storeBytes; rw [ih]; rfl

@[simp] theorem State.storeBytes_v (base : Nat) (l : List Byte) : (s.storeBytes base l).v = s.v := by
  rw [State.storeBytes_eq]
@[simp] theorem State.storeBytes_pc (base : Nat) (l : List Byte) : (s.storeBytes base l).pc = s.pc := by
  rw [State.storeBytes_eq]
@[simp] theorem State.storeBytes_i (base : Nat) (l : List Byte) : (s.storeBytes base l).i = s.i := by
  rw [State.storeBytes_eq]
@[simp] theorem State.storeBytes_stk (base : Nat) (l : List Byte) : (s.storeBytes base l).stk = s.stk := by
  rw [State.storeBytes_eq]
@[simp] theorem State.storeBytes_dt (base : Nat) (l : List Byte) : (s.storeBytes base l).dt = s.dt := by
  rw [State.storeBytes_eq]
@[simp] theorem State.storeBytes_st (base : Nat) (l : List Byte) : (s.storeBytes base l).st = s.st := by
  rw [State.storeBytes_eq]
@[simp] theorem State.storeBytes_d (base : Nat) (l : List Byte) : (s.storeBytes base l).d = s.d := by
  rw [State.storeBytes_eq]
@[simp] theorem State.storeBytes_k (base : Nat) (l : List Byte) : (s.storeBytes base l).k = s.k := by
  rw [State.storeBytes_eq]
@[simp] theorem State.storeBytes_rand (base : Nat) (l : List Byte) : (s.storeBytes base l).rand = s.rand := by
  rw [State.storeBytes_eq]
@[simp] theorem State.storeBytes_draws (base : Nat) (l : List Byte) : (s.storeBytes base l).draws = s.draws := by
  rw [State.storeBytes_eq]
@[simp] theorem State.storeBytes_result (base : Nat) (l : List Byte) : (s.storeBytes base l).result = s.result := by
  rw [State.storeBytes_eq]
@[simp] theorem State.storeBytes_tone (base : Nat) (l : List Byte) : (s.storeBytes base l).tone = s.tone := by
  rw [State.storeBytes_eq]
@[simp] theorem State.storeBytes_config (base : Nat) (l : List Byte) : (s.storeBytes base l).config = s.config := by
  rw [State.storeBytes_eq]
@[simp] theorem State.reg_storeBytes (base : Nat) (l : List Byte) (x : Nib) :
    (s.storeBytes base l).reg x = s.reg x := by
  rw [State.storeBytes_eq]; rfl
@[simp] theorem State.pixel_storeBytes (base : Nat) (l : List Byte) (x : Fin 64) (y : Fin 32) :
    (s.storeBytes base l).pixel x y = s.pixel x y := by
  rw [State.storeBytes_eq]; rfl

/-- Every byte after a store: the stored ones inside the span, all others as before. -/
theorem State.byteAt_storeBytes (base : Nat) (l : List Byte) (a : Nat) :
    (s.storeBytes base l).byteAt a =
      if base ≤ a ∧ a < base + l.length then l.getD (a - base) 0#8 else s.byteAt a := by
  induction l generalizing base s with
  | nil => simp [State.storeBytes]
  | cons w l ih =>
    unfold State.storeBytes
    rw [ih, State.byteAt_putByte]
    by_cases h : a = base
    · subst h
      simp
    · by_cases hin : base + 1 ≤ a ∧ a < base + 1 + l.length
      · have : base ≤ a ∧ a < base + (w :: l).length := by simp; omega
        rw [if_pos hin, if_pos this]
        obtain ⟨k, hk⟩ : ∃ k, a - base = k + 1 := ⟨a - base - 1, by omega⟩
        have : a - (base + 1) = k := by omega
        simp [hk, this]
      · have : ¬ (base ≤ a ∧ a < base + (w :: l).length) := by simp; omega
        rw [if_neg hin, if_neg h, if_neg this]

/-- Stores within the address space keep the canonical form. -/
theorem State.storeBytes_wf {base : Nat} {l : List Byte} (h : base + l.length ≤ 4096)
    (hs : Memory.wf s.config.font s.mem) : Memory.wf s.config.font (s.storeBytes base l).mem := by
  induction l generalizing base s with
  | nil => exact hs
  | cons w l ih =>
    simp only [List.length_cons] at h
    have := ih (s := s.putByte base w) (base := base + 1) (by omega) (Memory.put_wf hs (by omega) w)
    simpa [State.storeBytes] using this

/-- The range test: it passes exactly when every address of the span is at most 0xFFF. -/
theorem checkSpan_ok {base count : Nat} (h : count = 0 ∨ base + count ≤ 4096) : checkSpan base count = .ok () := by
  unfold checkSpan
  rw [if_neg (by omega)]

/-- The range test's failure names the lowest offending address. -/
theorem checkSpan_error {base count : Nat} (h : 0 < count ∧ 4096 < base + count) :
    checkSpan base count = .error (.addressOutOfRange (max base 0x1000)) := by
  unfold checkSpan
  rw [if_pos (by omega)]

/-- Everything `writeSpan` can do. -/
theorem State.writeSpan_cases (l : List Byte) :
    (s.writeSpan l = .ok (s.storeBytes s.base l) ∧ (l.length = 0 ∨ s.base + l.length ≤ 4096)) ∨
    (s.writeSpan l = .error (.addressOutOfRange (max s.base 0x1000)) ∧ 0 < l.length ∧ 4096 < s.base + l.length) := by
  unfold State.writeSpan
  by_cases h : l.length = 0 ∨ s.base + l.length ≤ 4096
  · rw [checkSpan_ok h]; exact .inl ⟨rfl, h⟩
  · rw [checkSpan_error (by omega)]; exact .inr ⟨rfl, by omega, by omega⟩

/-- Everything `readSpan` can do. -/
theorem State.readSpan_cases (n : Nat) :
    (s.readSpan n = .ok (s.loadBytes s.base n) ∧ (n = 0 ∨ s.base + n ≤ 4096)) ∨
    (s.readSpan n = .error (.addressOutOfRange (max s.base 0x1000)) ∧ 0 < n ∧ 4096 < s.base + n) := by
  unfold State.readSpan
  by_cases h : n = 0 ∨ s.base + n ≤ 4096
  · rw [checkSpan_ok h]; exact .inl ⟨rfl, h⟩
  · rw [checkSpan_error (by omega)]; exact .inr ⟨rfl, by omega, by omega⟩

/-- `MemRead` within the address space. -/
theorem State.memRead_ok {a : Nat} (h : a ≤ 0xFFF) : s.memRead a = .ok (s.byteAt a) := if_pos h

/-- `MemRead` above 0xFFF. -/
theorem State.memRead_error {a : Nat} (h : 0xFFF < a) : s.memRead a = .error (.addressOutOfRange a) :=
  if_neg (Nat.not_le.mpr h)

/-! ### The stack -/

theorem State.push_ok {w : Word16} (h : s.stk.length < 16) : s.push w = .ok (s.setStk (s.stk ++ [w])) := if_pos h

theorem State.push_error {w : Word16} (h : 16 ≤ s.stk.length) : s.push w = .error .stackOverflow :=
  if_neg (Nat.not_lt.mpr h)

theorem State.pop_ok {l : List Word16} {w : Word16} (h : s.stk = l ++ [w]) : s.pop = .ok (w, s.setStk l) := by
  simp [State.pop, h]

theorem State.pop_error (h : s.stk = []) : s.pop = .error .stackUnderflow := by
  simp [State.pop, h]

/-! ### Results -/

@[simp] theorem State.finish_ok : s.finish (.ok t) = .next (t.setResult .ok) := rfl
@[simp] theorem State.finish_error (f : Failure) : s.finish (.error f) = .next (s.setResult (.failed f)) := rfl
@[simp] theorem State.complete_eq : s.complete = .next (s.setResult .ok) := rfl
@[simp] theorem State.takeFailure_eq (f : Failure) : s.takeFailure f = .next (s.setResult (.failed f)) := rfl
@[simp] theorem endOutcome_next : endOutcome (.next t) = .next t.endCycle := rfl

/-! ### Flags and numbers -/

/-- A timer's decrement as a number, floor 0. -/
@[simp] theorem countDown_toNat (b : Byte) : (countDown b).toNat = b.toNat - 1 := by
  unfold countDown
  have := b.isLt
  split
  · simp; omega
  · omega

@[simp] theorem flagByte_true : flagByte true = 1#8 := rfl
@[simp] theorem flagByte_false : flagByte false = 0#8 := rfl

@[simp] theorem sumByte_toNat (a b : Byte) : (sumByte a b).toNat = (a.toNat + b.toNat) % 256 := by
  simp [sumByte]

@[simp] theorem diffByte_toNat (a b : Byte) : (diffByte a b).toNat = (a.toNat + 256 - b.toNat) % 256 := by
  simp [diffByte]

@[simp] theorem shiftRightByte_toNat (a : Byte) : (shiftRightByte a).toNat = a.toNat / 2 := by
  have := a.isLt
  simp [shiftRightByte]; omega

@[simp] theorem shiftLeftByte_toNat (a : Byte) : (shiftLeftByte a).toNat = a.toNat * 2 % 256 := by
  simp [shiftLeftByte]

@[simp] theorem addrOperand_toNat (nnn : Addr12) : (addrOperand nnn).toNat = nnn.toNat := by
  have := nnn.isLt
  simp [addrOperand]; omega

@[simp] theorem wideByte_toNat (b : Byte) : (wideByte b).toNat = b.toNat := by
  have := b.isLt
  simp [wideByte]; omega

/-! ### Keys -/

/-- The key cell that V[x] names. -/
theorem State.keyOperand_ok {x : Nib} (h : (s.reg x).toNat < 16) :
    s.keyOperand x = .ok (s.k[(s.reg x).toNat]) := dif_pos h

/-- A code above 0xF names no cell. -/
theorem State.keyOperand_error {x : Nib} (h : 16 ≤ (s.reg x).toNat) :
    s.keyOperand x = .error (.keyOutOfRange (s.reg x)) := dif_neg (Nat.not_lt.mpr h)

theorem Keys.lowestFrom_cases (k : Keys) (fuel c : Nat) (hc : c + fuel ≤ 16) :
    (∃ e : Nib, Keys.lowestFrom k fuel c = some e ∧ Keys.pressed k e = true ∧ c ≤ e.toNat ∧
      ∀ f : Nib, c ≤ f.toNat → f.toNat < e.toNat → Keys.pressed k f = false) ∨
    (Keys.lowestFrom k fuel c = none ∧
      ∀ f : Nib, c ≤ f.toNat → f.toNat < c + fuel → Keys.pressed k f = false) := by
  induction fuel generalizing c with
  | zero => exact .inr ⟨rfl, fun f h1 h2 => by omega⟩
  | succ fuel ih =>
    have hcn : (BitVec.ofNat 4 c).toNat = c := by simp; omega
    have heq : ∀ f : Nib, f.toNat = c → f = BitVec.ofNat 4 c := fun f h =>
      BitVec.eq_of_toNat_eq (h.trans hcn.symm)
    unfold Keys.lowestFrom
    split
    · rename_i hp
      exact .inl ⟨_, rfl, hp, by omega, fun f h1 h2 => by omega⟩
    · rename_i hp
      rcases ih (c + 1) (by omega) with ⟨e, he, hpe, hle, hall⟩ | ⟨he, hall⟩
      · refine .inl ⟨e, he, hpe, by omega, fun f h1 h2 => ?_⟩
        by_cases hf : f.toNat = c
        · rw [heq f hf]; simpa using hp
        · exact hall f (by omega) h2
      · refine .inr ⟨he, fun f h1 h2 => ?_⟩
        by_cases hf : f.toNat = c
        · rw [heq f hf]; simpa using hp
        · exact hall f (by omega) (by omega)

/-- Everything the default KEY_SELECT can answer. -/
theorem Keys.lowest_cases (k : Keys) :
    (∃ e : Nib, Keys.lowest k = some e ∧ Keys.pressed k e = true ∧
      ∀ f : Nib, f.toNat < e.toNat → Keys.pressed k f = false) ∨
    (Keys.lowest k = none ∧ ∀ f : Nib, Keys.pressed k f = false) := by
  rcases Keys.lowestFrom_cases k 16 0 (by omega) with ⟨e, he, hp, -, hall⟩ | ⟨he, hall⟩
  · exact .inl ⟨e, he, hp, fun f hf => hall f (by omega) hf⟩
  · exact .inr ⟨he, fun f => hall f (by omega) (by have := f.isLt; omega)⟩

/-- Whatever KEY_SELECT is, it answers a pressed code, and none only when no key is down. -/
theorem selectKey_cases (sel : KeySelect) (k : Keys) :
    (∃ e : Nib, selectKey sel k = some e ∧ Keys.pressed k e = true) ∨
    (selectKey sel k = none ∧ ∀ f : Nib, Keys.pressed k f = false) := by
  have hlow : (∃ e : Nib, Keys.lowest k = some e ∧ Keys.pressed k e = true) ∨
      (Keys.lowest k = none ∧ ∀ f : Nib, Keys.pressed k f = false) :=
    (Keys.lowest_cases k).imp_left fun ⟨e, he, hp, _⟩ => ⟨e, he, hp⟩
  cases sel with
  | lowest => exact hlow
  | unspecified n =>
    by_cases hp : Keys.pressed k (Config.keyChoice n k) = true
    · exact .inl ⟨_, if_pos hp, hp⟩
    · have he : selectKey (.unspecified n) k = Keys.lowest k := if_neg hp
      rw [he]
      exact hlow

end Sys2Proof.Machine
end

