-- ==== Sys2Proof/Laws/Draw.lean ====
section
/-! SUPPORT. What drawing a list of sprite bits does to every pixel (44_display.md R191): the loop of the pseudocode
against the set of pixels it lands on. -/

namespace Sys2Proof.Machine

/-- The pixels that a list of bits lands on, in order. -/
def landed (edge : DrawEdge) (bits : List (Nat × Nat)) : List (Fin 64 × Fin 32) :=
  bits.filterMap fun p => lands edge p.1 p.2

/-- One toggled pixel, every other as before. -/
theorem Display.getElem_toggle (d : Display) (x x' : Fin 64) (y y' : Fin 32) :
    (Display.toggle d x y)[x'][y'] = if x' = x ∧ y' = y then !d[x][y] else d[x'][y'] := by
  unfold Display.toggle
  simp only [Fin.getElem_fin, Vector.getElem_set, Fin.ext_iff]
  by_cases hx : x.val = x'.val
  · by_cases hy : y.val = y'.val
    · simp [hx, hy]
    · simp [hx, hy, Ne.symm hy]
  · simp [hx, Ne.symm hx]

/-- The loop over bits that land on distinct pixels: each landed pixel is toggled once, and the hit bit says whether
one of them was set. -/
theorem foldl_drawBit (edge : DrawEdge) (bits : List (Nat × Nat)) (a : Display × Bool)
    (hnd : (landed edge bits).Nodup) :
    (∀ x y, (bits.foldl (drawBit edge) a).1[x][y] = (a.1[x][y] ^^ decide ((x, y) ∈ landed edge bits))) ∧
      (bits.foldl (drawBit edge) a).2 = (a.2 || (landed edge bits).any fun p => a.1[p.1][p.2]) := by
  induction bits generalizing a with
  | nil => simp [landed]
  | cons p bits ih =>
    rw [List.foldl_cons]
    rcases hl : lands edge p.1 p.2 with _ | q
    · have hcons : landed edge (p :: bits) = landed edge bits := by simp [landed, hl]
      have hbit : drawBit edge a p = a := by simp [drawBit, hl]
      rw [hcons] at hnd ⊢
      rw [hbit]
      exact ih a hnd
    · have hcons : landed edge (p :: bits) = q :: landed edge bits := by simp [landed, hl]
      have hbit : drawBit edge a p = (Display.toggle a.1 q.1 q.2, a.2 || a.1[q.1][q.2]) := by simp [drawBit, hl]
      rw [hcons] at hnd ⊢
      obtain ⟨hq, hnd⟩ := List.nodup_cons.mp hnd
      obtain ⟨ih1, ih2⟩ := ih (drawBit edge a p) hnd
      refine ⟨fun x y => ?_, ?_⟩
      · rw [ih1 x y, hbit]
        simp only [Display.getElem_toggle]
        by_cases hxy : (x, y) = q
        · subst hxy
          simp [hq]
        · have : ¬ (x = q.1 ∧ y = q.2) := fun h => hxy (Prod.ext h.1 h.2)
          simp [this, hxy]
      · rw [ih2, hbit, List.any_cons, Bool.or_assoc]
        congr 1
        congr 1
        rw [Bool.eq_iff_iff]
        simp only [List.any_eq_true, Display.getElem_toggle]
        refine exists_congr fun r => and_congr_right fun hr => ?_
        have : ¬ (r.1 = q.1 ∧ r.2 = q.2) := fun h => hq (Prod.ext h.1 h.2 ▸ hr)
        simp [this]

/-- The 1 bits of one sprite row. -/
theorem mem_rowBits {x0 y : Nat} {b : Byte} {p : Nat × Nat} :
    p ∈ rowBits x0 y b ↔ ∃ c, c < 8 ∧ b.getLsbD (7 - c) = true ∧ p = (x0 + c, y) := by
  simp only [rowBits, List.mem_filterMap, List.mem_range, Option.ite_none_right_eq_some, Option.some.injEq]
  exact exists_congr fun c => and_congr_right fun _ => and_congr_right fun _ => eq_comm

/-- The 1 bits of a sprite. -/
theorem mem_spriteBits {x0 y : Nat} {l : List Byte} {p : Nat × Nat} :
    p ∈ spriteBits x0 y l ↔
      ∃ r c, r < l.length ∧ c < 8 ∧ (l.getD r 0#8).getLsbD (7 - c) = true ∧ p = (x0 + c, y + r) := by
  induction l generalizing y with
  | nil => simp [spriteBits]
  | cons b l ih =>
    simp only [spriteBits, List.mem_append, mem_rowBits, ih]
    constructor
    · rintro (⟨c, hc, hb, rfl⟩ | ⟨r, c, hr, hc, hb, rfl⟩)
      · exact ⟨0, c, by simp, hc, by simpa using hb, rfl⟩
      · exact ⟨r + 1, c, by simpa using hr, hc, by simpa using hb, by simp; omega⟩
    · rintro ⟨r, c, hr, hc, hb, rfl⟩
      cases r with
      | zero => exact .inl ⟨c, hc, by simpa using hb, rfl⟩
      | succ r => exact .inr ⟨r, c, by simpa using hr, hc, by simpa using hb, by simp; omega⟩

/-- No unreduced position occurs twice in a sprite. -/
theorem spriteBits_nodup (x0 y : Nat) (l : List Byte) : (spriteBits x0 y l).Nodup := by
  induction l generalizing y with
  | nil => simp [spriteBits]
  | cons b l ih =>
    refine List.nodup_append.mpr ⟨?_, ih _, ?_⟩
    · refine List.Nodup.filterMap ?_ List.nodup_range
      intro c c' p hc hc'
      simp only [Option.mem_def, Option.ite_none_right_eq_some, Option.some.injEq] at hc hc'
      have := hc.2.trans hc'.2.symm
      simp only [Prod.mk.injEq] at this
      omega
    · intro p hp q hq
      obtain ⟨c, -, -, rfl⟩ := mem_rowBits.mp hp
      obtain ⟨r, c', -, -, -, rfl⟩ := mem_spriteBits.mp hq
      simp only [ne_eq, Prod.mk.injEq, not_and]
      omega

/-- Where a bit lands, as arithmetic. -/
theorem lands_eq_some {edge : DrawEdge} {px py : Nat} {q : Fin 64 × Fin 32} :
    lands edge px py = some q ↔
      if edge = .wrap then px % 64 = q.1.val ∧ py % 32 = q.2.val else px = q.1.val ∧ py = q.2.val := by
  have hx := q.1.isLt
  have hy := q.2.isLt
  cases edge <;>
    simp [lands, Prod.ext_iff, Fin.ext_iff] <;> omega

/-- A sprite of at most 15 rows visits no pixel twice (R191). -/
theorem landed_spriteBits_nodup (edge : DrawEdge) (x0 y0 : Nat) {l : List Byte} (hl : l.length ≤ 15) :
    (landed edge (spriteBits x0 y0 l)).Nodup := by
  refine List.pairwise_filterMap.mpr ((spriteBits_nodup x0 y0 l).imp_of_mem ?_)
  intro p q hp hq hne u hu w hw huw
  obtain ⟨r, c, hr, hc, -, rfl⟩ := mem_spriteBits.mp hp
  obtain ⟨r', c', hr', hc', -, rfl⟩ := mem_spriteBits.mp hq
  subst huw
  have h1 := lands_eq_some.mp hu
  have h2 := lands_eq_some.mp hw
  have hrc : c = c' ∧ r = r' := by
    by_cases he : edge = .wrap
    · rw [if_pos he] at h1 h2
      omega
    · rw [if_neg he] at h1 h2
      omega
  exact hne (by rw [hrc.1, hrc.2])

/-- Which pixels a sprite lands on, as arithmetic on its rows and columns. -/
theorem mem_landed_spriteBits {edge : DrawEdge} {x0 y0 : Nat} {l : List Byte} {q : Fin 64 × Fin 32} :
    q ∈ landed edge (spriteBits x0 y0 l) ↔
      ∃ r c, r < l.length ∧ c < 8 ∧ (l.getD r 0#8).getLsbD (7 - c) = true ∧
        (if edge = .wrap then (x0 + c) % 64 = q.1.val ∧ (y0 + r) % 32 = q.2.val
          else x0 + c = q.1.val ∧ y0 + r = q.2.val) := by
  simp only [landed, List.mem_filterMap, mem_spriteBits, lands_eq_some]
  constructor
  · rintro ⟨p, ⟨r, c, hr, hc, hb, rfl⟩, h⟩
    exact ⟨r, c, hr, hc, hb, h⟩
  · rintro ⟨r, c, hr, hc, hb, h⟩
    exact ⟨_, ⟨r, c, hr, hc, hb, rfl⟩, h⟩

/-- When DRAW_EDGE = reject fails a sprite. -/
theorem rejects_iff {edge : DrawEdge} {x0 y0 : Nat} {l : List Byte} :
    rejects edge (spriteBits x0 y0 l) = true ↔
      edge = .reject ∧ ∃ r c, r < l.length ∧ c < 8 ∧ (l.getD r 0#8).getLsbD (7 - c) = true ∧
        (63 < x0 + c ∨ 31 < y0 + r) := by
  simp only [rejects, Bool.and_eq_true, beq_iff_eq, List.any_eq_true, mem_spriteBits, Bool.or_eq_true,
    decide_eq_true_eq]
  refine and_congr_right fun _ => ⟨?_, ?_⟩
  · rintro ⟨p, ⟨r, c, hr, hc, hb, rfl⟩, h⟩
    exact ⟨r, c, hr, hc, hb, h⟩
  · rintro ⟨r, c, hr, hc, hb, h⟩
    exact ⟨_, ⟨r, c, hr, hc, hb, rfl⟩, h⟩

/-- Everything drawing a sprite does: each pixel it lands on is toggled once, and hit says whether one was set. -/
theorem drawBits_spec (edge : DrawEdge) (d : Display) (x0 y0 : Nat) {l : List Byte} (hl : l.length ≤ 15) :
    (∀ x y, (drawBits edge d (spriteBits x0 y0 l)).1[x][y] =
      (d[x][y] ^^ decide ((x, y) ∈ landed edge (spriteBits x0 y0 l)))) ∧
    (drawBits edge d (spriteBits x0 y0 l)).2 =
      (landed edge (spriteBits x0 y0 l)).any fun p => d[p.1][p.2] := by
  have h := foldl_drawBit edge (spriteBits x0 y0 l) (d, false) (landed_spriteBits_nodup edge x0 y0 hl)
  exact ⟨h.1, by simpa [drawBits] using h.2⟩

end Sys2Proof.Machine
end

