-- ==== Sys2Proof/Laws/Encoding.lean ====
section
/-! SUPPORT. Fields and formats of a word as numbers (30_encoding.md R70, R71), so that encodings are arithmetic. -/

namespace Sys2Proof

@[simp] theorem opField_toNat (w : Word16) : (opField w).toNat = w.toNat / 4096 := by
  have := w.isLt
  simp [opField, Nat.shiftRight_eq_div_pow]; omega

@[simp] theorem xField_toNat (w : Word16) : (xField w).toNat = w.toNat / 256 % 16 := by
  simp [xField, Nat.shiftRight_eq_div_pow]

@[simp] theorem yField_toNat (w : Word16) : (yField w).toNat = w.toNat / 16 % 16 := by
  simp [yField, Nat.shiftRight_eq_div_pow]

@[simp] theorem nField_toNat (w : Word16) : (nField w).toNat = w.toNat % 16 := by
  simp [nField]

@[simp] theorem nnField_toNat (w : Word16) : (nnField w).toNat = w.toNat % 256 := by
  simp [nnField]

@[simp] theorem nnnField_toNat (w : Word16) : (nnnField w).toNat = w.toNat % 4096 := by
  simp [nnnField]

@[simp] theorem wordOfBytes_toNat (hi lo : Byte) : (wordOfBytes hi lo).toNat = hi.toNat * 256 + lo.toNat := by
  have h1 := hi.isLt
  have h2 := lo.isLt
  unfold wordOfBytes
  simp only [BitVec.toNat_or, BitVec.toNat_shiftLeft, BitVec.toNat_setWidth]
  rw [Nat.mod_eq_of_lt (a := hi.toNat) (by omega), Nat.mod_eq_of_lt (a := lo.toNat) (by omega),
    Nat.mod_eq_of_lt (b := 2 ^ 16) (by rw [Nat.shiftLeft_eq]; omega),
    ← Nat.shiftLeft_add_eq_or_of_lt (i := 8) (by omega), Nat.shiftLeft_eq]

@[simp] theorem formatNNN_toNat (op : Nib) (nnn : Addr12) :
    (formatNNN op nnn).toNat = op.toNat * 4096 + nnn.toNat := by
  have h1 := op.isLt
  have h2 := nnn.isLt
  unfold formatNNN
  simp only [BitVec.toNat_or, BitVec.toNat_shiftLeft, BitVec.toNat_setWidth]
  rw [Nat.mod_eq_of_lt (a := op.toNat) (by omega), Nat.mod_eq_of_lt (a := nnn.toNat) (by omega),
    Nat.mod_eq_of_lt (b := 2 ^ 16) (by rw [Nat.shiftLeft_eq]; omega),
    ← Nat.shiftLeft_add_eq_or_of_lt (i := 12) (by omega), Nat.shiftLeft_eq]

@[simp] theorem formatXNN_toNat (op x : Nib) (nn : Byte) :
    (formatXNN op x nn).toNat = op.toNat * 4096 + x.toNat * 256 + nn.toNat := by
  have h1 := op.isLt
  have h2 := x.isLt
  have h3 := nn.isLt
  unfold formatXNN
  simp only [BitVec.toNat_or, BitVec.toNat_shiftLeft, BitVec.toNat_setWidth]
  rw [Nat.mod_eq_of_lt (a := op.toNat) (by omega), Nat.mod_eq_of_lt (a := x.toNat) (by omega),
    Nat.mod_eq_of_lt (a := nn.toNat) (by omega),
    Nat.mod_eq_of_lt (b := 2 ^ 16) (by rw [Nat.shiftLeft_eq]; omega),
    Nat.mod_eq_of_lt (b := 2 ^ 16) (by rw [Nat.shiftLeft_eq]; omega), Nat.or_assoc,
    ← Nat.shiftLeft_add_eq_or_of_lt (a := x.toNat) (i := 8) (by omega),
    ← Nat.shiftLeft_add_eq_or_of_lt (i := 12) (by rw [Nat.shiftLeft_eq]; omega)]
  simp only [Nat.shiftLeft_eq]
  omega

@[simp] theorem formatXYN_toNat (op x y n : Nib) :
    (formatXYN op x y n).toNat = op.toNat * 4096 + x.toNat * 256 + y.toNat * 16 + n.toNat := by
  have h1 := op.isLt
  have h2 := x.isLt
  have h3 := y.isLt
  have h4 := n.isLt
  unfold formatXYN
  simp only [BitVec.toNat_or, BitVec.toNat_shiftLeft, BitVec.toNat_setWidth]
  rw [Nat.mod_eq_of_lt (a := op.toNat) (by omega), Nat.mod_eq_of_lt (a := x.toNat) (by omega),
    Nat.mod_eq_of_lt (a := y.toNat) (by omega), Nat.mod_eq_of_lt (a := n.toNat) (by omega),
    Nat.mod_eq_of_lt (b := 2 ^ 16) (by rw [Nat.shiftLeft_eq]; omega),
    Nat.mod_eq_of_lt (b := 2 ^ 16) (by rw [Nat.shiftLeft_eq]; omega),
    Nat.mod_eq_of_lt (b := 2 ^ 16) (by rw [Nat.shiftLeft_eq]; omega), Nat.or_assoc, Nat.or_assoc,
    ← Nat.shiftLeft_add_eq_or_of_lt (a := y.toNat) (i := 4) (by omega),
    ← Nat.shiftLeft_add_eq_or_of_lt (i := 8) (by rw [Nat.shiftLeft_eq]; omega),
    ← Nat.shiftLeft_add_eq_or_of_lt (i := 12) (by rw [Nat.shiftLeft_eq, Nat.shiftLeft_eq]; omega)]
  simp only [Nat.shiftLeft_eq]
  omega

/-! ### Each field of each format -/

@[simp] theorem opField_formatNNN (op : Nib) (nnn : Addr12) : opField (formatNNN op nnn) = op :=
  BitVec.eq_of_toNat_eq (by have := nnn.isLt; simp; omega)

@[simp] theorem nnnField_formatNNN (op : Nib) (nnn : Addr12) : nnnField (formatNNN op nnn) = nnn :=
  BitVec.eq_of_toNat_eq (by have := nnn.isLt; simp; omega)

@[simp] theorem opField_formatXNN (op x : Nib) (nn : Byte) : opField (formatXNN op x nn) = op :=
  BitVec.eq_of_toNat_eq (by have := x.isLt; have := nn.isLt; simp; omega)

@[simp] theorem xField_formatXNN (op x : Nib) (nn : Byte) : xField (formatXNN op x nn) = x :=
  BitVec.eq_of_toNat_eq (by have := x.isLt; have := nn.isLt; simp; omega)

@[simp] theorem nnField_formatXNN (op x : Nib) (nn : Byte) : nnField (formatXNN op x nn) = nn :=
  BitVec.eq_of_toNat_eq (by have := nn.isLt; simp; omega)

@[simp] theorem opField_formatXYN (op x y n : Nib) : opField (formatXYN op x y n) = op :=
  BitVec.eq_of_toNat_eq (by have := x.isLt; have := y.isLt; have := n.isLt; simp; omega)

@[simp] theorem xField_formatXYN (op x y n : Nib) : xField (formatXYN op x y n) = x :=
  BitVec.eq_of_toNat_eq (by have := x.isLt; have := y.isLt; have := n.isLt; simp; omega)

@[simp] theorem yField_formatXYN (op x y n : Nib) : yField (formatXYN op x y n) = y :=
  BitVec.eq_of_toNat_eq (by have := y.isLt; have := n.isLt; simp; omega)

@[simp] theorem nField_formatXYN (op x y n : Nib) : nField (formatXYN op x y n) = n :=
  BitVec.eq_of_toNat_eq (by have := n.isLt; simp; omega)

end Sys2Proof
end

