-- ==== Sys2Proof/Laws/PerInstr.lean ====
section
/-! SUPPORT. Laws stated per instruction: the top nibble of the encoder's word is that of its row of the opcode map
(30_encoding.md R73 and section 4), the first-level key of the decoder. -/

/-- The first-level key of an instruction's word is its row's. -/
def Sys2Proof.Laws.RowNibble.Statement (i : Sys2Proof.Instr) : Prop :=
  Sys2Proof.opField (Sys2Proof.encode i) = Sys2Proof.opField i.rowMatch

namespace Sys2Proof.Laws.RowNibble

theorem cls : Statement .cls := rfl
theorem ret : Statement .ret := rfl
theorem sys (nnn : Addr12) : Statement (.sys nnn) := (opField_formatNNN _ _).trans (by simp [Instr.rowMatch, opField])
theorem jp (nnn : Addr12) : Statement (.jp nnn) := (opField_formatNNN _ _).trans (by simp [Instr.rowMatch, opField])
theorem call (nnn : Addr12) : Statement (.call nnn) := (opField_formatNNN _ _).trans (by simp [Instr.rowMatch, opField])
theorem seImm (x : Nib) (nn : Byte) : Statement (.seImm x nn) := (opField_formatXNN _ _ _).trans (by simp [Instr.rowMatch, opField])
theorem sneImm (x : Nib) (nn : Byte) : Statement (.sneImm x nn) := (opField_formatXNN _ _ _).trans (by simp [Instr.rowMatch, opField])
theorem seReg (x y n : Nib) : Statement (.seReg x y n) := (opField_formatXYN _ _ _ _).trans (by simp [Instr.rowMatch, opField])
theorem ldImm (x : Nib) (nn : Byte) : Statement (.ldImm x nn) := (opField_formatXNN _ _ _).trans (by simp [Instr.rowMatch, opField])
theorem addImm (x : Nib) (nn : Byte) : Statement (.addImm x nn) := (opField_formatXNN _ _ _).trans (by simp [Instr.rowMatch, opField])
theorem ldReg (x y : Nib) : Statement (.ldReg x y) := (opField_formatXYN _ _ _ _).trans (by simp [Instr.rowMatch, opField])
theorem or (x y : Nib) : Statement (.or x y) := (opField_formatXYN _ _ _ _).trans (by simp [Instr.rowMatch, opField])
theorem and (x y : Nib) : Statement (.and x y) := (opField_formatXYN _ _ _ _).trans (by simp [Instr.rowMatch, opField])
theorem xor (x y : Nib) : Statement (.xor x y) := (opField_formatXYN _ _ _ _).trans (by simp [Instr.rowMatch, opField])
theorem addReg (x y : Nib) : Statement (.addReg x y) := (opField_formatXYN _ _ _ _).trans (by simp [Instr.rowMatch, opField])
theorem sub (x y : Nib) : Statement (.sub x y) := (opField_formatXYN _ _ _ _).trans (by simp [Instr.rowMatch, opField])
theorem shr (x y : Nib) : Statement (.shr x y) := (opField_formatXYN _ _ _ _).trans (by simp [Instr.rowMatch, opField])
theorem subn (x y : Nib) : Statement (.subn x y) := (opField_formatXYN _ _ _ _).trans (by simp [Instr.rowMatch, opField])
theorem shl (x y : Nib) : Statement (.shl x y) := (opField_formatXYN _ _ _ _).trans (by simp [Instr.rowMatch, opField])
theorem sneReg (x y n : Nib) : Statement (.sneReg x y n) := (opField_formatXYN _ _ _ _).trans (by simp [Instr.rowMatch, opField])
theorem ldI (nnn : Addr12) : Statement (.ldI nnn) := (opField_formatNNN _ _).trans (by simp [Instr.rowMatch, opField])
theorem jpV0 (nnn : Addr12) : Statement (.jpV0 nnn) := (opField_formatNNN _ _).trans (by simp [Instr.rowMatch, opField])
theorem rnd (x : Nib) (nn : Byte) : Statement (.rnd x nn) := (opField_formatXNN _ _ _).trans (by simp [Instr.rowMatch, opField])
theorem drw (x y n : Nib) : Statement (.drw x y n) := (opField_formatXYN _ _ _ _).trans (by simp [Instr.rowMatch, opField])
theorem skp (x : Nib) : Statement (.skp x) := (opField_formatXNN _ _ _).trans (by simp [Instr.rowMatch, opField])
theorem sknp (x : Nib) : Statement (.sknp x) := (opField_formatXNN _ _ _).trans (by simp [Instr.rowMatch, opField])
theorem ldVxDt (x : Nib) : Statement (.ldVxDt x) := (opField_formatXNN _ _ _).trans (by simp [Instr.rowMatch, opField])
theorem ldVxK (x : Nib) : Statement (.ldVxK x) := (opField_formatXNN _ _ _).trans (by simp [Instr.rowMatch, opField])
theorem ldDtVx (x : Nib) : Statement (.ldDtVx x) := (opField_formatXNN _ _ _).trans (by simp [Instr.rowMatch, opField])
theorem ldStVx (x : Nib) : Statement (.ldStVx x) := (opField_formatXNN _ _ _).trans (by simp [Instr.rowMatch, opField])
theorem addI (x : Nib) : Statement (.addI x) := (opField_formatXNN _ _ _).trans (by simp [Instr.rowMatch, opField])
theorem ldF (x : Nib) : Statement (.ldF x) := (opField_formatXNN _ _ _).trans (by simp [Instr.rowMatch, opField])
theorem ldB (x : Nib) : Statement (.ldB x) := (opField_formatXNN _ _ _).trans (by simp [Instr.rowMatch, opField])
theorem ldMemVx (x : Nib) : Statement (.ldMemVx x) := (opField_formatXNN _ _ _).trans (by simp [Instr.rowMatch, opField])
theorem ldVxMem (x : Nib) : Statement (.ldVxMem x) := (opField_formatXNN _ _ _).trans (by simp [Instr.rowMatch, opField])

end Sys2Proof.Laws.RowNibble
end

