-- ==== Sys2Proof/Laws/Step.lean ====
section
/-! SUPPORT. What a cycle can do, said once: the fetch, the decode, and the two ways a step ends. -/

namespace Sys2Proof.Machine

variable {s t : State}

/-- The fetch within the address space: the two bytes at pc, the high one first. -/
theorem State.fetchWord_ok (h : s.pc.toNat ≤ 0xFFE) :
    s.fetchWord = .ok (wordOfBytes (s.byteAt s.pc.toNat) (s.byteAt (s.pc.toNat + 1))) := by
  unfold State.fetchWord
  rw [State.memRead_ok (by omega), State.memRead_ok (by omega)]

/-- The fetch beyond it: the lowest offending address. -/
theorem State.fetchWord_error (h : 0xFFE < s.pc.toNat) :
    s.fetchWord = .error (.addressOutOfRange (max s.pc.toNat 0x1000)) := by
  unfold State.fetchWord
  by_cases hp : s.pc.toNat = 0xFFF
  · rw [hp, State.memRead_ok (by omega), State.memRead_error (by omega)]
    rfl
  · rw [State.memRead_error (by omega), Nat.max_eq_left (by omega)]

/-- Everything fetch and decode can answer. -/
theorem State.fetchInstr_cases :
    (∃ w i, s.fetchWord = .ok w ∧ decodeWord w = .ok i ∧ s.fetchInstr = .ok i) ∨
    (∃ w e, s.fetchWord = .ok w ∧ decodeWord w = .error e ∧ s.fetchInstr = .error (decodeFailure w e)) ∨
    (∃ f, s.fetchWord = .error f ∧ s.fetchInstr = .error f) := by
  unfold State.fetchInstr
  rcases hw : s.fetchWord with f | w
  · exact .inr (.inr ⟨f, rfl, rfl⟩)
  · rcases hd : decodeWord w with e | i
    · exact .inr (.inl ⟨w, e, rfl, hd, by simp [hd]⟩)
    · exact .inl ⟨w, i, rfl, hd, by simp [hd]⟩

theorem step_of_fetched {i : Instr} (h : s.fetchInstr = .ok i) : step s = endOutcome (exec i s) := by
  unfold step; rw [h]

theorem step_of_failed {f : Failure} (h : s.fetchInstr = .error f) :
    step s = .next (s.setResult (.failed f)).endCycle := by
  unfold step; rw [h]; rfl

/-- Everything a step that answers a next state has done. -/
theorem step_next_cases (h : step s = .next t) :
    (∃ i u, s.fetchInstr = .ok i ∧ exec i s = .next u ∧ t = u.endCycle) ∨
    (∃ f, s.fetchInstr = .error f ∧ t = (s.setResult (.failed f)).endCycle) := by
  rcases hf : s.fetchInstr with f | i
  · rw [step_of_failed hf] at h
    exact .inr ⟨f, rfl, by injection h with h; exact h.symm⟩
  · rw [step_of_fetched hf] at h
    rcases he : exec i s with u | r | r
    · rw [he] at h
      exact .inl ⟨i, u, rfl, he, by injection h with h; exact h.symm⟩
    · rw [he] at h; injection h
    · rw [he] at h; injection h

end Sys2Proof.Machine
end

