-- ==== Sys2Proof/Tests/Slice0.lean ====
section
/-! SUPPORT. Tests: expected results are those of 95_test_vectors.md (named V-..., S...), words are written bit by bit
from 30_encoding.md, and every obligation with hypotheses has states and operands that meet them. -/

namespace Sys2Proof.Tests

open Sys2Proof.Machine

/-! ### Helpers -/

/-- The state a step answers, the reset state if it answers none. -/
def after (o : Outcome) : State :=
  match o with
  | .next t => t
  | .fault _ => State.reset
  | .refused _ => State.reset

/-- Whether a step answers a state. -/
def answers (o : Outcome) : Bool :=
  match o with
  | .next _ => true
  | .fault _ => false
  | .refused _ => false

theorem eq_next_after {o : Outcome} (h : answers o = true) : o = .next (after o) := by
  rcases o with t | r | r
  · rfl
  · simp [answers] at h
  · simp [answers] at h

/-- One cycle with the word `w` at pc. -/
def run (w : Nat) (s : State) : State := after (step (s.withFetchWord 16 w))

/-- The reset state with some registers set. -/
def regs (l : List (Nib × Byte)) : State := l.foldl (fun s p => s.setReg p.1 p.2) State.reset

/-- The reset state of a block with another DRAW_EDGE. -/
def edged (e : DrawEdge) : State := State.resetWith { defaultConfig with drawEdge := e }

/-- The pixels of a state that are set, as column and row. -/
def lit (s : State) : List (Nat × Nat) :=
  (List.range 64).flatMap fun x => (List.range 32).filterMap fun y =>
    if s.pixel (Fin.ofNat 64 x) (Fin.ofNat 32 y) then some (x, y) else none

/-- Some pixels toggled. -/
def lighten (l : List (Fin 64 × Fin 32)) (s : State) : State :=
  s.setDisplay (l.foldl (fun d p => Display.toggle d p.1 p.2) s.d)

/-- The state with one key down. -/
def keyed (c : Nib) (s : State) : State := s.setKey c true

/-! ### Well-formedness: one ill-formed term for each check, and a well-formed neighbour -/

theorem test_wellFormed_refuses_sys_of_cls : (Instr.sys 0x0E0#12).wellFormed = false := by decide
theorem test_wellFormed_refuses_sys_of_ret : (Instr.sys 0x0EE#12).wellFormed = false := by decide
theorem test_wellFormed_accepts_sys : (Instr.sys 0x0E1#12).wellFormed = true := by decide

/-! ### Decoding: every constructor, its word bit by bit as OP, X, Y, N or OP, NNN or OP, X, NN (R71) -/

theorem test_decode_group0 :
    decodeWord 0b0000000011100000#16 = .ok .cls ∧ decodeWord 0b0000000011101110#16 = .ok .ret ∧
    decodeWord 0b0000000100100011#16 = .ok (.sys 0x123#12) := by decide
theorem test_decode_jumps :
    decodeWord 0b0001101010111100#16 = .ok (.jp 0xABC#12) ∧ decodeWord 0b0010001000001010#16 = .ok (.call 0x20A#12) ∧
    decodeWord 0b1011001100000000#16 = .ok (.jpV0 0x300#12) := by decide
theorem test_decode_skips :
    decodeWord 0b0011101001000010#16 = .ok (.seImm 0xA#4 0x42#8) ∧
    decodeWord 0b0100101001000010#16 = .ok (.sneImm 0xA#4 0x42#8) ∧
    decodeWord 0b0101001101000000#16 = .ok (.seReg 0x3#4 0x4#4 0x0#4) ∧
    decodeWord 0b1001001101001111#16 = .ok (.sneReg 0x3#4 0x4#4 0xF#4) ∧
    decodeWord 0b1110001010011110#16 = .ok (.skp 0x2#4) ∧ decodeWord 0b1110001010100001#16 = .ok (.sknp 0x2#4) := by
  decide
theorem test_decode_immediate :
    decodeWord 0b0110101001000010#16 = .ok (.ldImm 0xA#4 0x42#8) ∧
    decodeWord 0b0111000111111111#16 = .ok (.addImm 0x1#4 0xFF#8) ∧
    decodeWord 0b1100001100001111#16 = .ok (.rnd 0x3#4 0x0F#8) := by decide
theorem test_decode_group8 :
    decodeWord 0b1000101010110000#16 = .ok (.ldReg 0xA#4 0xB#4) ∧
    decodeWord 0b1000101010110001#16 = .ok (.or 0xA#4 0xB#4) ∧
    decodeWord 0b1000101010110010#16 = .ok (.and 0xA#4 0xB#4) ∧
    decodeWord 0b1000101010110011#16 = .ok (.xor 0xA#4 0xB#4) ∧
    decodeWord 0b1000101010110100#16 = .ok (.addReg 0xA#4 0xB#4) ∧
    decodeWord 0b1000101010110101#16 = .ok (.sub 0xA#4 0xB#4) ∧
    decodeWord 0b1000101010110110#16 = .ok (.shr 0xA#4 0xB#4) ∧
    decodeWord 0b1000101010110111#16 = .ok (.subn 0xA#4 0xB#4) ∧
    decodeWord 0b1000101010111110#16 = .ok (.shl 0xA#4 0xB#4) := by decide
theorem test_decode_index :
    decodeWord 0b1010001100000000#16 = .ok (.ldI 0x300#12) ∧ decodeWord 0b1111001000011110#16 = .ok (.addI 0x2#4) ∧
    decodeWord 0b1111001000101001#16 = .ok (.ldF 0x2#4) ∧ decodeWord 0b1111001000110011#16 = .ok (.ldB 0x2#4) ∧
    decodeWord 0b1111001001010101#16 = .ok (.ldMemVx 0x2#4) ∧
    decodeWord 0b1111001001100101#16 = .ok (.ldVxMem 0x2#4) := by decide
theorem test_decode_draw : decodeWord 0b1101000000010010#16 = .ok (.drw 0x0#4 0x1#4 0x2#4) := by decide
theorem test_decode_timers :
    decodeWord 0b1111001000000111#16 = .ok (.ldVxDt 0x2#4) ∧ decodeWord 0b1111001000001010#16 = .ok (.ldVxK 0x2#4) ∧
    decodeWord 0b1111001000010101#16 = .ok (.ldDtVx 0x2#4) ∧ decodeWord 0b1111001000011000#16 = .ok (.ldStVx 0x2#4) := by
  decide
/-- V-E8, V-E10, V-E12. -/
theorem test_decode_unrecognised :
    ([0x8008, 0x8009, 0x800A, 0x800B, 0x800C, 0x800D, 0x800F, 0xE000, 0xE09F, 0xE0A0, 0xE1FF, 0xEE9D, 0xF000, 0xF008,
      0xF01F, 0xF056, 0xF075, 0xF085, 0xFFFF].all fun n =>
        decide (decodeWord (BitVec.ofNat 16 n) = .error (.codeNotRecognised (BitVec.ofNat 16 n)))) = true := by decide
/-- An instruction's bytes: the high byte at the lower address (R51); one byte is no instruction (R72). -/
theorem test_decode_bytes :
    decodeBytes [0x22#8, 0x0A#8, 0xF2#8] = .ok (.call 0x20A#12, [0xF2#8]) ∧ decodeBytes [0x22#8] = .error .truncated ∧
    encodeBytes (.call 0x20A#12) = [0x22#8, 0x0A#8] := by decide

/-! ### Reset and the host -/

/-- R36, R31: reset values, the glyph of 0 and of F, the byte after FONT. -/
theorem test_reset_values :
    State.reset.pc = 0x0200#16 ∧ State.reset.byteAt 0x000 = 0xF0#8 ∧ State.reset.byteAt 0x04E = 0x80#8 ∧
    State.reset.byteAt 0x04F = 0x80#8 ∧ State.reset.byteAt 0x050 = 0x00#8 := by decide
/-- P6: nothing loaded. -/
theorem test_reset_cycle : (after (step State.reset)).result = .failed (.codeNotImplemented 0x0000#16) := by decide
/-- V-H2: an image of 3585 bytes. -/
theorem test_load_too_long :
    (State.reset.load (List.replicate 3585 0x00#8)).1 = .notEnoughMemory 3585 3584 := by
  rw [State.load, if_pos (by rw [List.length_replicate]; decide), List.length_replicate]; rfl
/-- V-H4: only the image's bytes change. -/
theorem test_load_keeps_pc :
    let s := ((regs [(0x0#4, 0x11#8)]).setPc 0x0300#16).load [0x12#8, 0x08#8]
    s.1 = .ok ∧ s.2.byteAt 0x200 = 0x12#8 ∧ s.2.byteAt 0x201 = 0x08#8 ∧ s.2.byteAt 0x202 = 0x00#8 ∧
    s.2.pc = 0x0300#16 ∧ s.2.reg 0x0#4 = 0x11#8 := by decide
/-- V-H5. -/
theorem test_setKey : Keys.pressed (State.reset.setKey 0xA#4 true).k 0xA#4 = true ∧
    Keys.pressed (State.reset.setKey 0xA#4 true).k 0x9#4 = false := by decide
/-- V-T15: a reset releases the keys and clears the timers. -/
theorem test_hostReset : (((keyed 0x5#4 State.reset).setDt 0x09#8).hostReset).dt = 0x00#8 ∧
    Keys.pressed (((keyed 0x5#4 State.reset).setDt 0x09#8).hostReset).k 0x5#4 = false := by decide

/-! ### Control flow -/

/-- V-C1. -/
theorem test_jp : (run 0x1ABC State.reset).pc = 0x0ABC#16 := by decide
/-- V-C4. -/
theorem test_call : (run 0x220A (State.reset.setPc 0x0204#16)).pc = 0x020A#16 ∧
    (run 0x220A (State.reset.setPc 0x0204#16)).stk = [0x0206#16] := by decide
/-- V-C6: the top is last. -/
theorem test_call_nested : (run 0x2400 ((State.reset.setPc 0x0300#16).setStk [0x0206#16])).stk =
    [0x0206#16, 0x0302#16] := by decide
/-- V-C5. -/
theorem test_ret : (run 0x00EE ((State.reset.setPc 0x020C#16).setStk [0x0206#16])).pc = 0x0206#16 ∧
    (run 0x00EE ((State.reset.setPc 0x020C#16).setStk [0x0206#16])).stk = [] := by decide
/-- V-C8. -/
theorem test_ret_underflow : (run 0x00EE State.reset).result = .failed .stackUnderflow := by decide
/-- V-C11. -/
theorem test_sys : (run 0x0123 State.reset).result = .failed (.codeNotImplemented 0x0123#16) ∧
    (run 0x0123 State.reset).pc = 0x0200#16 := by decide
/-- V-C9. -/
theorem test_jpV0 : (run 0xB300 (regs [(0x0#4, 0x04#8)])).pc = 0x0304#16 := by decide
/-- V-C10: not reduced to 12 bits, and the next fetch fails. -/
theorem test_jpV0_beyond : (run 0xBFFF (regs [(0x0#4, 0xFF#8)])).pc = 0x10FE#16 ∧
    (after (step (run 0xBFFF (regs [(0x0#4, 0xFF#8)])))).result = .failed (.addressOutOfRange 0x10FE) := by decide
/-- V-C13: the lowest offending address of a fetch at 0x0FFF. -/
theorem test_fetch_at_top : (after (step (State.reset.setPc 0x0FFF#16))).result =
    .failed (.addressOutOfRange 0x1000) := by decide

/-! ### Skips -/

/-- V-S1, V-S2. -/
theorem test_seImm : (run 0x3A42 (regs [(0xA#4, 0x42#8)])).pc = 0x0204#16 ∧
    (run 0x3A42 (regs [(0xA#4, 0x43#8)])).pc = 0x0202#16 := by decide
/-- V-S19: pc wraps modulo 65536. -/
theorem test_seImm_wraps : (after (exec (.seImm 0xA#4 0x42#8) ((regs [(0xA#4, 0x42#8)]).setPc 0xFFFE#16))).pc =
    0x0002#16 := by decide
/-- V-S3, V-S4. -/
theorem test_sneImm : (run 0x4A42 (regs [(0xA#4, 0x42#8)])).pc = 0x0202#16 ∧
    (run 0x4A42 (regs [(0xA#4, 0x43#8)])).pc = 0x0204#16 := by decide
/-- V-S6, V-S7: the low nibble is ignored. -/
theorem test_seReg : (run 0x5340 (regs [(0x3#4, 0x42#8), (0x4#4, 0x43#8)])).pc = 0x0202#16 ∧
    (run 0x5341 (regs [(0x3#4, 0x42#8), (0x4#4, 0x42#8)])).pc = 0x0204#16 := by decide
/-- V-S9, V-S10. -/
theorem test_sneReg : (run 0x9340 (regs [(0x3#4, 0x42#8), (0x4#4, 0x42#8)])).pc = 0x0202#16 ∧
    (run 0x934F (regs [(0x3#4, 0x42#8), (0x4#4, 0x43#8)])).pc = 0x0204#16 := by decide
/-- V-S13, V-S14. -/
theorem test_skp : (run 0xE29E (keyed 0x7#4 (regs [(0x2#4, 0x07#8)]))).pc = 0x0204#16 ∧
    (run 0xE29E (regs [(0x2#4, 0x07#8)])).pc = 0x0202#16 := by decide
/-- V-S17. -/
theorem test_skp_range : (run 0xE09E (regs [(0x0#4, 0x10#8)])).result = .failed (.keyOutOfRange 0x10#8) ∧
    (run 0xE09E (regs [(0x0#4, 0x10#8)])).pc = 0x0200#16 := by decide
/-- V-S15, V-S16. -/
theorem test_sknp : (run 0xE2A1 (keyed 0x7#4 (regs [(0x2#4, 0x07#8)]))).pc = 0x0202#16 ∧
    (run 0xE2A1 (regs [(0x2#4, 0x07#8)])).pc = 0x0204#16 := by decide
/-- V-S18. -/
theorem test_sknp_range : (run 0xE0A1 (regs [(0x0#4, 0xFF#8)])).result = .failed (.keyOutOfRange 0xFF#8) := by decide

/-! ### Load, arithmetic, logic -/

/-- V-A1, V-A2: VF is writable as data. -/
theorem test_ldImm : (run 0x6A42 State.reset).reg 0xA#4 = 0x42#8 ∧
    (run 0x6F00 (regs [(0xF#4, 0x01#8)])).reg 0xF#4 = 0x00#8 := by decide
/-- V-A4: no carry flag. -/
theorem test_addImm : (run 0x7102 (regs [(0x1#4, 0xFF#8)])).reg 0x1#4 = 0x01#8 ∧
    (run 0x7102 (regs [(0x1#4, 0xFF#8)])).reg 0xF#4 = 0x00#8 := by decide
/-- V-A5. -/
theorem test_ldReg : (run 0x8010 (regs [(0x1#4, 0x37#8)])).reg 0x0#4 = 0x37#8 := by decide
/-- V-A6: VF unchanged. -/
theorem test_or : (run 0x8011 (regs [(0x0#4, 0xF0#8), (0x1#4, 0x0F#8), (0xF#4, 0x01#8)])).reg 0x0#4 = 0xFF#8 ∧
    (run 0x8011 (regs [(0x0#4, 0xF0#8), (0x1#4, 0x0F#8), (0xF#4, 0x01#8)])).reg 0xF#4 = 0x01#8 := by decide
/-- V-A7. -/
theorem test_and : (run 0x8012 (regs [(0x0#4, 0xF0#8), (0x1#4, 0x3C#8)])).reg 0x0#4 = 0x30#8 := by decide
/-- V-A8, V-A9. -/
theorem test_xor : (run 0x8013 (regs [(0x0#4, 0xF0#8), (0x1#4, 0x3C#8)])).reg 0x0#4 = 0xCC#8 ∧
    (run 0x8003 (regs [(0x0#4, 0x5A#8)])).reg 0x0#4 = 0x00#8 := by decide
/-- V-A12, V-A13: 255 is no carry, 256 is. -/
theorem test_addReg : (run 0x8014 (regs [(0x0#4, 0x80#8), (0x1#4, 0x7F#8)])).reg 0xF#4 = 0x00#8 ∧
    (run 0x8014 (regs [(0x0#4, 0x80#8), (0x1#4, 0x80#8)])).reg 0xF#4 = 0x01#8 ∧
    (run 0x8014 (regs [(0x0#4, 0x80#8), (0x1#4, 0x80#8)])).reg 0x0#4 = 0x00#8 := by decide
/-- V-A16: with X = 0xF the flag remains. -/
theorem test_addReg_vf : (run 0x8F14 (regs [(0xF#4, 0x10#8), (0x1#4, 0x20#8)])).reg 0xF#4 = 0x00#8 := by decide
/-- V-A20, V-A22: equal gives 0; the old VF is subtracted. -/
theorem test_sub : (run 0x8015 (regs [(0x0#4, 0x05#8), (0x1#4, 0x05#8)])).reg 0xF#4 = 0x00#8 ∧
    (run 0x80F5 (regs [(0x0#4, 0x05#8), (0xF#4, 0x03#8)])).reg 0x0#4 = 0x02#8 ∧
    (run 0x80F5 (regs [(0x0#4, 0x05#8), (0xF#4, 0x03#8)])).reg 0xF#4 = 0x01#8 := by decide
/-- V-A21: with X = 0xF the difference remains. -/
theorem test_sub_vf : (run 0x8F15 (regs [(0xF#4, 0x05#8), (0x1#4, 0x03#8)])).reg 0xF#4 = 0x02#8 := by decide
/-- V-A24: V4 is not read. -/
theorem test_shr : (run 0x8346 (regs [(0x3#4, 0xFE#8), (0x4#4, 0x55#8)])).reg 0x3#4 = 0x7F#8 ∧
    (run 0x8346 (regs [(0x3#4, 0xFE#8), (0x4#4, 0x55#8)])).reg 0xF#4 = 0x00#8 := by decide
/-- V-A25. -/
theorem test_shr_vf : (run 0x8F06 (regs [(0xF#4, 0x07#8)])).reg 0xF#4 = 0x03#8 := by decide
/-- V-A26, V-A27. -/
theorem test_subn : (run 0x8017 (regs [(0x0#4, 0x03#8), (0x1#4, 0x05#8)])).reg 0x0#4 = 0x02#8 ∧
    (run 0x8017 (regs [(0x0#4, 0x05#8), (0x1#4, 0x03#8)])).reg 0x0#4 = 0xFE#8 ∧
    (run 0x8017 (regs [(0x0#4, 0x05#8), (0x1#4, 0x03#8)])).reg 0xF#4 = 0x00#8 := by decide
/-- V-A29, V-A30. -/
theorem test_shl : (run 0x800E (regs [(0x0#4, 0x81#8)])).reg 0x0#4 = 0x02#8 ∧
    (run 0x800E (regs [(0x0#4, 0x81#8)])).reg 0xF#4 = 0x01#8 ∧
    (run 0x800E (regs [(0x0#4, 0x7F#8)])).reg 0x0#4 = 0xFE#8 := by decide
/-- V-A31. -/
theorem test_shl_vf : (run 0x8F0E (regs [(0xF#4, 0xC1#8)])).reg 0xF#4 = 0x82#8 := by decide
/-- V-A32. -/
theorem test_rnd : (run 0xC30F (State.reset.setRand 0xA7#8)).reg 0x3#4 = 0x07#8 := by decide

/-! ### Index register and memory -/

/-- V-M1. -/
theorem test_ldI : (run 0xA300 State.reset).i = 0x0300#16 := by decide
/-- V-M3, V-M4. -/
theorem test_addI : (run 0xF01E ((regs [(0x0#4, 0x01#8)]).setI 0x0FFF#16)).i = 0x1000#16 ∧
    (run 0xF01E ((regs [(0x0#4, 0x02#8)]).setI 0xFFFF#16)).i = 0x0001#16 := by decide
/-- V-M6, V-M7: no masking. -/
theorem test_ldF : (run 0xF029 (regs [(0x0#4, 0x0F#8)])).i = 0x004B#16 ∧
    (run 0xF029 (regs [(0x0#4, 0xFF#8)])).i = 0x04FB#16 := by decide
/-- V-M8. -/
theorem test_ldB : let t := run 0xF033 ((regs [(0x0#4, 0xEA#8)]).setI 0x0300#16)
    t.byteAt 0x300 = 0x02#8 ∧ t.byteAt 0x301 = 0x03#8 ∧ t.byteAt 0x302 = 0x04#8 ∧ t.i = 0x0300#16 := by decide
/-- V-M12: no partial store. -/
theorem test_ldB_range : let t := run 0xF033 ((regs [(0x0#4, 0x7B#8)]).setI 0x0FFE#16)
    t.result = .failed (.addressOutOfRange 0x1000) ∧ t.byteAt 0xFFE = 0x00#8 ∧ t.byteAt 0xFFF = 0x00#8 := by decide
/-- V-M9, first half: V3 is not stored. -/
theorem test_ldMemVx :
    let t := run 0xF255 ((regs [(0x0#4, 0x11#8), (0x1#4, 0x22#8), (0x2#4, 0x33#8), (0x3#4, 0x44#8)]).setI 0x0300#16)
    t.byteAt 0x300 = 0x11#8 ∧ t.byteAt 0x302 = 0x33#8 ∧ t.byteAt 0x303 = 0x00#8 ∧ t.i = 0x0300#16 := by decide
/-- V-M17: a store into the font is permitted. -/
theorem test_ldMemVx_font : (run 0xF055 State.reset).byteAt 0x000 = 0x00#8 := by decide
/-- V-M11: VF loaded as data; its neighbour. -/
theorem test_ldVxMem :
    let t := run 0xFF65 ((State.reset.storeBytes 0x40E [0x0E#8, 0x0F#8]).setI 0x0400#16)
    t.reg 0xE#4 = 0x0E#8 ∧ t.reg 0xF#4 = 0x0F#8 := by decide
/-- V-M16. -/
theorem test_ldVxMem_range : let t := run 0xF065 ((regs [(0x0#4, 0x55#8)]).setI 0x1000#16)
    t.result = .failed (.addressOutOfRange 0x1000) ∧ t.reg 0x0#4 = 0x55#8 := by decide

/-! ### Display -/

/-- V-D9. -/
theorem test_cls : lit (run 0x00E0 (lighten [(3, 0), (63, 31)] State.reset)) = [] := by decide
/-- V-D2: a collision. -/
theorem test_drw : let t := run 0xD011 (lighten [(3, 0)] ((State.reset.putByte 0x300 0xFF#8).setI 0x0300#16))
    lit t = [(0, 0), (1, 0), (2, 0), (4, 0), (5, 0), (6, 0), (7, 0)] ∧ t.reg 0xF#4 = 0x01#8 := by decide
/-- The start of V-D6. -/
def corner (e : DrawEdge) : State :=
  ((((edged e).storeBytes 0x300 [0xFF#8, 0x81#8]).setI 0x0300#16).setReg 0x0#4 0x3E#8).setReg 0x1#4 0x1F#8
/-- V-D6, the three edge policies. -/
theorem test_drw_edges :
    lit (run 0xD012 (corner .wrap)) = [(0, 31), (1, 31), (2, 31), (3, 31), (4, 31), (5, 0), (5, 31), (62, 0), (62, 31),
      (63, 31)] ∧
    lit (run 0xD012 (corner .clip)) = [(62, 31), (63, 31)] ∧
    (run 0xD012 (corner .reject)).result = .failed (.drawOutOfBounds 0x3E#8 0x1F#8 0x2#4) := by decide

/-! ### Timers and keys -/

/-- V-T2. -/
theorem test_ldVxDt : (run 0xF107 (State.reset.setDt 0x02#8)).reg 0x1#4 = 0x02#8 ∧
    (run 0xF107 (State.reset.setDt 0x02#8)).dt = 0x01#8 := by decide
/-- V-T13: the lowest of two keys. -/
theorem test_ldVxK : (run 0xF20A (keyed 0x3#4 (keyed 0x7#4 State.reset))).reg 0x2#4 = 0x03#8 ∧
    (run 0xF20A (keyed 0x3#4 (keyed 0x7#4 State.reset))).pc = 0x0202#16 := by decide
/-- V-T14: the timers run during the wait. -/
theorem test_ldVxK_waits : let t := run 0xF20A ((State.reset.setDt 0x02#8).setSt 0x01#8)
    t.pc = 0x0200#16 ∧ t.result = .ok ∧ t.dt = 0x01#8 ∧ t.st = 0x00#8 ∧ t.tone = true := by decide
/-- V-T1. -/
theorem test_ldDtVx : (run 0xF015 (regs [(0x0#4, 0x03#8)])).dt = 0x02#8 := by decide
/-- V-T5, V-T6. -/
theorem test_ldStVx : (run 0xF018 (regs [(0x0#4, 0x01#8)])).tone = true ∧
    (run 0xF018 (State.reset.setSt 0x01#8)).tone = false := by decide
/-- V-T9: a failed cycle runs the timer step. -/
theorem test_failed_cycle_timers : let t := run 0xFFFF ((State.reset.setDt 0x01#8).setSt 0x01#8)
    t.result = .failed (.codeNotRecognised 0xFFFF#16) ∧ t.pc = 0x0200#16 ∧ t.dt = 0x00#8 ∧ t.st = 0x00#8 ∧
    t.tone = true := by decide

/-! ### Witnesses: states and operands that meet the hypotheses of each obligation -/

/-- A state with the word `w` at pc. -/
def holding (w : Nat) (s : State) : State := s.withFetchWord 16 w

/-- Sixteen return addresses. -/
def fullStack : List Word16 := List.replicate 16 0x0206#16

/-- With an empty stack only pc matters. -/
theorem inReach_of_nil {s : State} (h : s.pc.toNat ≤ 0x10FE) (hs : s.stk = []) : s.PcInReach :=
  ⟨h, by rw [hs]; simp⟩

theorem witness_DecodeOfEncode :
    (Instr.sys 0xFFF#12).wellFormed = true ∧ (Instr.drw 0xF#4 0xF#4 0xF#4).wellFormed = true := by decide
theorem witness_EncodeOfDecode : decodeWord 0x512F#16 = .ok (.seReg 0x1#4 0x2#4 0xF#4) := by decide
theorem witness_UnrecognisedWordsExactly :
    ∃ s w, s.fetchWord = .ok w ∧ decodeWord w = .error (.codeNotRecognised w) ∧
      ∃ t, step s = .next t ∧ t.result = .failed (.codeNotRecognised w) :=
  ⟨holding 0x800F State.reset, 0x800F#16, by decide, by decide, _, eq_next_after (by decide), by decide⟩
theorem witness_OpcodeMapSelectsRow :
    0x8FFE#16 &&& (Instr.shl 0#4 0#4).rowMask = (Instr.shl 0#4 0#4).rowMatch ∧
    (Instr.shl 0#4 0#4).rowMatch ≠ 0x0000#16 := by decide
theorem witness_OpcodeMapSelectsRow_sys :
    0x00EF#16 &&& 0xF000#16 = 0x0000#16 ∧ 0x00EF#16 ≠ 0x00E0#16 ∧ 0x00EF#16 ≠ 0x00EE#16 := by decide
theorem witness_StepRunsDecodedInstruction :
    let s := holding 0x6011 (State.reset.setPc 0x0FFE#16)
    s.pc.toNat ≤ 0x0FFE ∧
    decodeWord (BitVec.ofNat 16 ((s.byteAt s.pc.toNat).toNat * 0x100 + (s.byteAt (s.pc.toNat + 1)).toNat)) =
      .ok (.ldImm 0x0#4 0x11#8) := by decide
theorem witness_FetchReadsTwoBytesOrFails :
    (State.reset.setPc 0x0FFE#16).pc.toNat ≤ 0x0FFE ∧ 0x0FFE < (State.reset.setPc 0x0FFF#16).pc.toNat ∧
    0x0FFE < (State.reset.setPc 0x1000#16).pc.toNat := by decide
theorem witness_TimerStepEndsEveryCycle :
    (∃ s t i, step s = .next t ∧ s.fetchInstr = .ok i) ∧ (∃ s t f, step s = .next t ∧ s.fetchInstr = .error f) :=
  ⟨⟨holding 0x6000 State.reset, _, .ldImm 0x0#4 0x00#8, eq_next_after (by decide), by decide⟩,
    ⟨holding 0xFFFF State.reset, _, .codeNotRecognised 0xFFFF#16, eq_next_after (by decide), by decide⟩⟩
theorem witness_FailedCycleIsPrecise : ∃ s t, step s = .next t ∧ t.result = .failed .stackOverflow ∧ s.st = 1#8 :=
  ⟨holding 0x2ABC ((State.reset.setStk fullStack).setSt 1#8), _, eq_next_after (by decide), by decide, by decide⟩
theorem witness_RandReadOnlyByRnd : ∃ s : State, ∀ x nn, s.fetchInstr ≠ .ok (.rnd x nn) :=
  ⟨holding 0x00E0 State.reset, fun x nn h => by
    have : (holding 0x00E0 State.reset).fetchInstr = .ok .cls := by decide
    rw [this] at h; cases h⟩
theorem witness_FailedCycleIsPrecise_decode : (holding 0xFFFF State.reset).fetchInstr =
    .error (.codeNotRecognised 0xFFFF#16) := by decide
theorem witness_EachFailureHasItsCause :
    (∃ s t, step s = .next t ∧ t.result = .failed (.codeNotRecognised 0xF066#16)) ∧
    (∃ s t, step s = .next t ∧ t.result = .failed (.codeNotImplemented 0x00EF#16)) ∧
    (∃ s t, step s = .next t ∧ t.result = .failed (.addressOutOfRange 0x1000)) ∧
    (∃ s t, step s = .next t ∧ t.result = .failed (.addressOutOfRange 0xFFFF)) ∧
    (∃ s t, step s = .next t ∧ t.result = .failed .stackOverflow) ∧
    (∃ s t, step s = .next t ∧ t.result = .failed .stackUnderflow) ∧
    (∃ s t, step s = .next t ∧ t.result = .failed (.keyOutOfRange 0x10#8)) ∧
    (∃ s t, step s = .next t ∧ t.result = .failed (.drawOutOfBounds 0x3E#8 0x1F#8 0x2#4)) :=
  ⟨⟨holding 0xF066 State.reset, _, eq_next_after (by decide), by decide⟩,
    ⟨holding 0x00EF State.reset, _, eq_next_after (by decide), by decide⟩,
    ⟨holding 0xF033 (State.reset.setI 0x0FFE#16), _, eq_next_after (by decide), by decide⟩,
    ⟨holding 0xD011 (State.reset.setI 0xFFFF#16), _, eq_next_after (by decide), by decide⟩,
    ⟨holding 0x2ABC (State.reset.setStk fullStack), _, eq_next_after (by decide), by decide⟩,
    ⟨holding 0x00EE State.reset, _, eq_next_after (by decide), by decide⟩,
    ⟨holding 0xE0A1 (regs [(0x0#4, 0x10#8)]), _, eq_next_after (by decide), by decide⟩,
    ⟨holding 0xD012 (corner .reject), _, eq_next_after (by decide), by decide⟩⟩
theorem witness_RandReadOnlyByRnd_rnd : (holding 0xCF0F State.reset).fetchInstr = .ok (.rnd 0xF#4 0x0F#8) := by decide
theorem witness_FailureRepeats : ∃ s t, step s = .next t ∧ t.result = .failed (.addressOutOfRange 0x1000) :=
  ⟨holding 0xF155 (State.reset.setI 0x0FFF#16), _, eq_next_after (by decide), by decide⟩
theorem witness_SelfJumpIsFixedPoint :
    let s := holding 0x1208 (State.reset.setPc 0x0208#16)
    s.fetchInstr = .ok (.jp 0x208#12) ∧ s.pc.toNat = (0x208#12).toNat := by decide
theorem witness_ResetValues : ∃ s t : State, t ≠ s ∧ t = s.hostReset :=
  ⟨State.reset.setDt 9#8, _, fun h => absurd (congrArg State.dt h) (by decide), rfl⟩
theorem witness_StepKeepsInv :
    ∃ s t : State, s.Inv ∧ step s = .next t ∧ t.stk.length = 16 :=
  ⟨holding 0x2ABC (State.reset.setStk (List.replicate 15 0x0206#16)), _, ⟨by decide, by decide⟩,
    eq_next_after (by decide), by decide⟩
theorem witness_StepKeepsInv_store :
    ∃ s t : State, s.Inv ∧ step s = .next t ∧ t.byteAt 0xFFF = 0x05#8 :=
  ⟨holding 0xF033 ((regs [(0x0#4, 0xFF#8)]).setI 0x0FFD#16), _, ⟨by decide, by decide⟩,
    eq_next_after (by decide), by decide⟩
theorem witness_StepKeepsPcInReach :
    ∃ s t : State, s.PcInReach ∧ step s = .next t ∧ t.pc = 0x10FE#16 :=
  ⟨holding 0xBFFF (regs [(0x0#4, 0xFF#8)]), _, inReach_of_nil (by decide) (by decide), eq_next_after (by decide), by decide⟩
theorem witness_StepKeepsPcInReach_call :
    ∃ s t : State, s.PcInReach ∧ step s = .next t ∧ t.stk = [0x1000#16] :=
  ⟨holding 0x2ABC (State.reset.setPc 0x0FFE#16), _, inReach_of_nil (by decide) (by decide), eq_next_after (by decide), by decide⟩
theorem witness_HostActionsKeepInvariants : State.reset.Inv ∧ State.reset.PcInReach :=
  ⟨⟨by decide, by decide⟩, inReach_of_nil (by decide) (by decide)⟩
theorem witness_HostResetForgets :
    (State.reset.setDt 9#8).config = State.reset.config ∧ (edged .clip).config = ((edged .clip).setDt 9#8).config := by
  decide
theorem witness_LoadWritesExactlyTheImage :
    (List.replicate 3584 0x00#8).length ≤ 3584 ∧ 3584 < (List.replicate 3585 0x00#8).length := by
  simp only [List.length_replicate]; decide
theorem witness_CycleLeavesKeysAndConfig : ∃ s t, step s = .next t :=
  ⟨State.reset, _, eq_next_after (by decide)⟩
theorem witness_OnlyStoresChangeMemory :
    (∃ s t, step s = .next t ∧ t.byteAt 0xFFF ≠ s.byteAt 0xFFF ∧ s.fetchInstr = .ok (.ldB 0x0#4)) ∧
    (∃ s t, step s = .next t ∧ t.byteAt 0xFFF ≠ s.byteAt 0xFFF ∧ s.fetchInstr = .ok (.ldMemVx 0xF#4)) :=
  ⟨⟨holding 0xF033 ((regs [(0x0#4, 0xFF#8)]).setI 0x0FFD#16), _, eq_next_after (by decide), by decide, by decide⟩,
    ⟨holding 0xFF55 ((regs [(0xF#4, 0xAA#8)]).setI 0x0FF0#16), _, eq_next_after (by decide), by decide, by decide⟩⟩
theorem witness_OnlyClsAndDrwChangeDisplay :
    (∃ s t, step s = .next t ∧ t.pixel 63 31 ≠ s.pixel 63 31 ∧ s.fetchInstr = .ok .cls) ∧
    (∃ s t, step s = .next t ∧ t.pixel 63 31 ≠ s.pixel 63 31 ∧ s.fetchInstr = .ok (.drw 0x0#4 0x1#4 0x2#4)) :=
  ⟨⟨holding 0x00E0 (lighten [(63, 31)] State.reset), _, eq_next_after (by decide), by decide, by decide⟩,
    ⟨holding 0xD012 (corner .wrap), _, eq_next_after (by decide), by decide, by decide⟩⟩
theorem witness_OnlyCallAndRetChangeStack :
    (∃ s t, step s = .next t ∧ t.stk ≠ s.stk ∧ s.fetchInstr = .ok (.call 0x20A#12)) ∧
    (∃ s t, step s = .next t ∧ t.stk ≠ s.stk ∧ s.fetchInstr = .ok .ret) :=
  ⟨⟨holding 0x220A State.reset, _, eq_next_after (by decide), by decide, by decide⟩,
    ⟨holding 0x00EE (State.reset.setStk fullStack), _, eq_next_after (by decide), by decide, by decide⟩⟩
theorem witness_OnlyThreeInstructionsWriteI :
    (∃ s t, step s = .next t ∧ t.i ≠ s.i ∧ s.fetchInstr = .ok (.ldI 0xFFF#12)) ∧
    (∃ s t, step s = .next t ∧ t.i ≠ s.i ∧ s.fetchInstr = .ok (.addI 0x0#4)) ∧
    (∃ s t, step s = .next t ∧ t.i ≠ s.i ∧ s.fetchInstr = .ok (.ldF 0x0#4)) :=
  ⟨⟨holding 0xAFFF State.reset, _, eq_next_after (by decide), by decide, by decide⟩,
    ⟨holding 0xF01E ((regs [(0x0#4, 0x02#8)]).setI 0xFFFF#16), _, eq_next_after (by decide), by decide, by decide⟩,
    ⟨holding 0xF029 (regs [(0x0#4, 0xFF#8)]), _, eq_next_after (by decide), by decide, by decide⟩⟩
theorem witness_VfWritersExactly :
    (∃ s t, step s = .next t ∧ t.reg 0xF#4 ≠ s.reg 0xF#4 ∧ s.fetchInstr = .ok (.addReg 0x0#4 0x0#4)) ∧
    (∃ s t, step s = .next t ∧ t.reg 0xF#4 ≠ s.reg 0xF#4 ∧ s.fetchInstr = .ok (.shr 0xF#4 0x0#4)) ∧
    (∃ s t, step s = .next t ∧ t.reg 0xF#4 ≠ s.reg 0xF#4 ∧ s.fetchInstr = .ok (.ldImm 0xF#4 0xFF#8)) ∧
    (∃ s t, step s = .next t ∧ t.reg 0xF#4 ≠ s.reg 0xF#4 ∧ s.fetchInstr = .ok (.ldVxMem 0xF#4)) :=
  ⟨⟨holding 0x8004 (regs [(0x0#4, 0x80#8)]), _, eq_next_after (by decide), by decide, by decide⟩,
    ⟨holding 0x8F06 (regs [(0xF#4, 0x07#8)]), _, eq_next_after (by decide), by decide, by decide⟩,
    ⟨holding 0x6FFF State.reset, _, eq_next_after (by decide), by decide, by decide⟩,
    ⟨holding 0xFF65 State.reset, _, eq_next_after (by decide), by decide, by decide⟩⟩
theorem witness_PcUpdateForms : ∃ s t, step s = .next t ∧ t.pc = s.pc + 4#16 :=
  ⟨holding 0x3000 State.reset, _, eq_next_after (by decide), by decide⟩
theorem witness_TimersCountDownUnlessWritten : ∃ s t, step s = .next t ∧ t.dt = 0xFE#8 ∧ t.st = 0x00#8 :=
  ⟨holding 0xF015 (regs [(0x0#4, 0xFF#8)]), _, eq_next_after (by decide), by decide, by decide⟩
theorem witness_SysFailsNotImplemented : 0x000#12 ≠ 0x0E0#12 ∧ 0x000#12 ≠ 0x0EE#12 := by decide
theorem witness_RetPopsOrUnderflows :
    (State.reset.setStk fullStack).stk = List.replicate 15 0x0206#16 ++ [0x0206#16] ∧ State.reset.stk = [] := by decide
theorem witness_CallPushesOrOverflows :
    (State.reset.setStk (List.replicate 15 0x0206#16)).stk.length < 16 ∧
    (State.reset.setStk fullStack).stk.length = 16 := by decide
theorem witness_SkipsOnKey :
    ((regs [(0x0#4, 0x0F#8)]).reg 0x0#4).toNat = (0xF#4).toNat ∧ 0xF < ((regs [(0x0#4, 0x10#8)]).reg 0x0#4).toNat := by
  decide
/-- The flag clauses of AddRegSumsAndCarries, SubtractionsFlagThenDifference and ShiftsByOne. -/
theorem witness_flag_clauses : 0xE#4 ≠ 0xF#4 := by decide
theorem witness_BcdStoresThreeDigits :
    (State.reset.setI 0x0FFD#16).base + 2 ≤ 0xFFF ∧ 0xFFF < (State.reset.setI 0x0FFE#16).base + 2 := by decide
theorem witness_StoreRegistersUpToX :
    (State.reset.setI 0x0FF0#16).base + (0xF#4).toNat ≤ 0xFFF ∧
    0xFFF < (State.reset.setI 0x0FF1#16).base + (0xF#4).toNat := by decide
theorem witness_LoadRegistersUpToX :
    (State.reset.setI 0x0FFF#16).base + (0x0#4).toNat ≤ 0xFFF ∧
    0xFFF < (State.reset.setI 0x1000#16).base + (0x0#4).toNat := by decide
/-- A state before FF55, and the one after it with VF then overwritten. -/
def beforeStore : State := (regs [(0xF#4, 0xAA#8)]).setI 0x0FF0#16
def overwritten : State := (after (exec (.ldMemVx 0xF#4) beforeStore)).setReg 0xF#4 0x00#8
theorem witness_StoreThenLoadRestores :
    exec (.ldMemVx 0xF#4) beforeStore = .next (after (exec (.ldMemVx 0xF#4) beforeStore)) ∧
    (after (exec (.ldMemVx 0xF#4) beforeStore)).result = .ok ∧
    overwritten.i = (after (exec (.ldMemVx 0xF#4) beforeStore)).i ∧
    (∀ a, overwritten.byteAt a = (after (exec (.ldMemVx 0xF#4) beforeStore)).byteAt a) ∧
    exec (.ldVxMem 0xF#4) overwritten = .next (after (exec (.ldVxMem 0xF#4) overwritten)) ∧
    overwritten.reg 0xF#4 ≠ beforeStore.reg 0xF#4 :=
  ⟨eq_next_after (by decide), by decide, by decide, fun _ => rfl, eq_next_after (by decide), by decide⟩
/-- V-M18, with pc on the stored bytes: F155 at 0x0204 stores V0 and V1 at 0x0206. -/
theorem witness_StoreSeenByNextFetch :
    ∃ s t, s.fetchInstr = .ok (.ldMemVx 0x1#4) ∧ step s = .next t ∧ t.result = .ok ∧ t.pc.toNat ≤ 0xFFE ∧
      s.base + (0x0#4).toNat = t.pc.toNat ∧ s.base + (0x1#4).toNat = t.pc.toNat + 1 ∧ t.fetchWord = .ok 0x1234#16 :=
  ⟨holding 0xF155 (((regs [(0x0#4, 0x12#8), (0x1#4, 0x34#8)]).setPc 0x0204#16).setI 0x0206#16), _, by decide,
    eq_next_after (by decide), by decide, by decide, by decide, by decide, by decide⟩
theorem witness_StoreSeenByNextFetch_elsewhere :
    ∃ s t, s.fetchInstr = .ok (.ldMemVx 0x0#4) ∧ step s = .next t ∧ t.result = .ok ∧
      s.base + (0x0#4).toNat < t.pc.toNat ∧ t.pc.toNat + 1 ≤ 0xFFF :=
  ⟨holding 0xF055 State.reset, _, by decide, eq_next_after (by decide), by decide, by decide, by decide⟩
theorem witness_DrwExclusiveOrsSprite_draws :
    (0x0#4 = 0#4 ∨ (State.reset.setI 0xFFFF#16).base + (0x0#4).toNat - 1 ≤ 0xFFF) ∧
    ((0xF#4 : Nib) = 0#4 ∨ (State.reset.setI 0x0FF1#16).base + (0xF#4).toNat - 1 ≤ 0xFFF) ∧
    ((State.reset.setI 0x0FF1#16).config.drawEdge = .reject →
      ¬ SpriteLeavesGrid (State.reset.setI 0x0FF1#16) 0x0#4 0x1#4 0xF#4) :=
  ⟨by decide, by decide, fun h => absurd h (by decide)⟩
theorem witness_DrwExclusiveOrsSprite_fits :
    ((0x5#4 : Nib) = 0#4 ∨ (edged .reject).base + (0x5#4).toNat - 1 ≤ 0xFFF) ∧
    (edged .reject).config.drawEdge = .reject ∧ ¬ SpriteLeavesGrid (edged .reject) 0x0#4 0x1#4 0x5#4 :=
  ⟨by decide, by decide, fun ⟨r, c, hr, hc, _, h⟩ => by
    have hx : ((edged .reject).reg 0x0#4).toNat = 0 := by decide
    have hy : ((edged .reject).reg 0x1#4).toNat = 0 := by decide
    rw [hx, hy] at h
    have : (0x5#4).toNat = 5 := by decide
    omega⟩
theorem witness_DrwExclusiveOrsSprite_address :
    0x1#4 ≠ 0#4 ∧ 0xFFF < (State.reset.setI 0x1000#16).base + (0x1#4).toNat - 1 := by decide
theorem witness_DrwExclusiveOrsSprite_rejects :
    (corner .reject).base + (0x2#4).toNat - 1 ≤ 0xFFF ∧ (corner .reject).config.drawEdge = .reject ∧
    SpriteLeavesGrid (corner .reject) 0x0#4 0x1#4 0x2#4 :=
  ⟨by decide, by decide, 0, 7, by decide, by decide, by unfold SpriteBit; decide, by decide⟩
theorem witness_DrwTwiceRestoresDisplay :
    0x0#4 ≠ 0xF#4 ∧ 0x1#4 ≠ 0xF#4 ∧ ∃ s t, exec (.drw 0x0#4 0x1#4 0x2#4) s = .next t ∧ t.result = .ok ∧
      s.pixel 63 31 = false ∧ t.pixel 63 31 = true :=
  ⟨by decide, by decide, corner .clip, _, eq_next_after (by decide), by decide, by decide, by decide⟩
theorem witness_TimerWriteDecrementsSameCycle :
    (holding 0xFF15 State.reset).fetchInstr = .ok (.ldDtVx 0xF#4) ∧
    (holding 0xFF18 State.reset).fetchInstr = .ok (.ldStVx 0xF#4) ∧
    (holding 0xFF07 State.reset).fetchInstr = .ok (.ldVxDt 0xF#4) := by decide
theorem witness_KeyWaitStoresPressedCode :
    (∀ c, Keys.pressed State.reset.k c = false) ∧ Keys.pressed (keyed 0xF#4 State.reset).k 0xF#4 = true ∧
    (keyed 0xF#4 State.reset).config.keySelect = .lowest := by decide

end Sys2Proof.Tests
end

namespace Sys2Proof.Machine

/-! ### What a cycle can do, by kind of effect (10_state.md: the rules over all instructions)

`Completes s i u` sorts the 35 instructions by which cells they write, so that each rule of 10_state.md about one cell
is one lemma with a case per writer of that cell. -/

/-- The conditional skips (R126). -/
inductive IsSkip : Instr → Prop where
  | seImm (x : Nib) (nn : Byte) : IsSkip (.seImm x nn)
  | sneImm (x : Nib) (nn : Byte) : IsSkip (.sneImm x nn)
  | seReg (x y n : Nib) : IsSkip (.seReg x y n)
  | sneReg (x y n : Nib) : IsSkip (.sneReg x y n)
  | skp (x : Nib) : IsSkip (.skp x)
  | sknp (x : Nib) : IsSkip (.sknp x)

/-- The instructions whose one write, but for pc, is V[x] (R140 to R145, R151, R200, R201). -/
inductive WritesReg (x : Nib) : Instr → Prop where
  | ldImm (nn : Byte) : WritesReg x (.ldImm x nn)
  | addImm (nn : Byte) : WritesReg x (.addImm x nn)
  | rnd (nn : Byte) : WritesReg x (.rnd x nn)
  | ldReg (y : Nib) : WritesReg x (.ldReg x y)
  | or (y : Nib) : WritesReg x (.or x y)
  | and (y : Nib) : WritesReg x (.and x y)
  | xor (y : Nib) : WritesReg x (.xor x y)
  | ldVxDt : WritesReg x (.ldVxDt x)
  | ldVxK : WritesReg x (.ldVxK x)

/-- The instructions that write the flag and then V[x] (R147 to R150). -/
inductive WritesFlagThenReg (x : Nib) : Instr → Prop where
  | sub (y : Nib) : WritesFlagThenReg x (.sub x y)
  | shr (y : Nib) : WritesFlagThenReg x (.shr x y)
  | subn (y : Nib) : WritesFlagThenReg x (.subn x y)
  | shl (y : Nib) : WritesFlagThenReg x (.shl x y)

/-- Instruction `i`, begun in `s`, may complete in `u` (before the result is recorded). What a register, a pixel or a
stored byte becomes is left open where no rule of 10_state.md speaks of it; `exec_failsOrCompletes` ties this to
`exec`. -/
inductive Completes (s : State) : Instr → State → Prop where
  | cls : Completes s .cls (s.setDisplay Display.blank).advance
  | ret {l : List Word16} {w : Word16} (hs : s.stk = l ++ [w]) : Completes s .ret ((s.setStk l).setPc w)
  | jp (nnn : Addr12) : Completes s (.jp nnn) (s.setPc (addrOperand nnn))
  | call (nnn : Addr12) (hs : s.stk.length < 16) :
      Completes s (.call nnn) ((s.setStk (s.stk ++ [s.pc + 2#16])).setPc (addrOperand nnn))
  | jpV0 (nnn : Addr12) : Completes s (.jpV0 nnn) (s.setPc (addrOperand nnn + wideByte (s.reg 0x0#4)))
  | skip {i : Instr} (hi : IsSkip i) (c : Bool) : Completes s i (s.skipIf c)
  | writesReg {i : Instr} {x : Nib} (hi : WritesReg x i) (b : Byte) : Completes s i (s.setReg x b).advance
  | flagThenReg {i : Instr} {x : Nib} (hi : WritesFlagThenReg x i) (c : Bool) (b : Byte) :
      Completes s i (s.setFlagThenResult x (flagByte c) b).advance
  | addReg (x y : Nib) (c : Bool) (b : Byte) :
      Completes s (.addReg x y) (s.setResultThenFlag x b (flagByte c)).advance
  | drw (x y n : Nib) (c : Bool) (e : Display) :
      Completes s (.drw x y n) ((s.setDisplay e).setReg vf (flagByte c)).advance
  | keyWait (x : Nib) (hk : ∀ c, Keys.pressed s.k c = false) : Completes s (.ldVxK x) s
  | ldDtVx (x : Nib) : Completes s (.ldDtVx x) (s.setDt (s.reg x)).advance
  | ldStVx (x : Nib) : Completes s (.ldStVx x) (s.setSt (s.reg x)).advance
  | ldI (nnn : Addr12) : Completes s (.ldI nnn) (s.setI (addrOperand nnn)).advance
  | addI (x : Nib) : Completes s (.addI x) (s.setI (s.i + wideByte (s.reg x))).advance
  | ldF (x : Nib) : Completes s (.ldF x) (s.setI (wideByte (s.reg x) * 5#16)).advance
  | ldB (x : Nib) {l : List Byte} (hl : l.length = 3) (hb : s.base + 3 ≤ 4096) :
      Completes s (.ldB x) (s.storeBytes s.base l).advance
  | ldMemVx (x : Nib) {l : List Byte} (hl : l.length = x.toNat + 1) (hb : s.base + (x.toNat + 1) ≤ 4096) :
      Completes s (.ldMemVx x) (s.storeBytes s.base l).advance
  | ldVxMem (x : Nib) (f : Nat → Byte) : Completes s (.ldVxMem x) (s.setRegs (x.toNat + 1) f).advance

variable {s t u : State} {i : Instr}

/-- `o` is the answer of an execute step of `i` from `s`: a failure taken from `s` itself, or a completion. -/
def FailsOrCompletes (i : Instr) (s : State) (o : Outcome) : Prop :=
  (∃ f, o = s.takeFailure f) ∨ ∃ u, Completes s i u ∧ o = u.complete

/-- An execute step that raises no failure completes. -/
theorem Completes.failsOrCompletes (h : Completes s i u) : FailsOrCompletes i s u.complete := .inr ⟨u, h, rfl⟩

/-! ### Two writes to registers, as the register writes they are -/

@[simp] theorem State.setResultThenFlag_eq (s : State) (x : Nib) (r flag : Byte) :
    s.setResultThenFlag x r flag = (s.setReg x r).setReg vf flag := rfl

@[simp] theorem State.setFlagThenResult_eq (s : State) (x : Nib) (flag r : Byte) :
    s.setFlagThenResult x flag r = (s.setReg vf flag).setReg x r := rfl

/-! ### The lengths of the two stored blocks -/

@[simp] theorem length_decimalDigits (b : Byte) : (decimalDigits b).length = 3 := rfl

@[simp] theorem State.length_regsUpTo (s : State) (x : Nib) : (s.regsUpTo x).length = x.toNat + 1 := by
  simp [State.regsUpTo]

/-! ### The instructions that can fail, and the key wait -/

theorem execRet_failsOrCompletes (s : State) : FailsOrCompletes .ret s (execRet s) := by
  unfold execRet
  rcases List.eq_nil_or_concat' s.stk with hs | ⟨l, w, hs⟩
  · rw [State.pop_error hs]
    exact .inl ⟨_, rfl⟩
  · rw [State.pop_ok hs]
    exact (Completes.ret hs).failsOrCompletes

theorem execCall_failsOrCompletes (nnn : Addr12) (s : State) : FailsOrCompletes (.call nnn) s (execCall nnn s) := by
  unfold execCall
  rcases Nat.lt_or_ge s.stk.length 16 with hs | hs
  · rw [State.push_ok hs]
    exact (Completes.call nnn hs).failsOrCompletes
  · rw [State.push_error hs]
    exact .inl ⟨_, rfl⟩

theorem execSkp_failsOrCompletes (x : Nib) (s : State) : FailsOrCompletes (.skp x) s (execSkp x s) := by
  unfold execSkp
  cases s.keyOperand x with
  | ok down => exact (Completes.skip (.skp x) _).failsOrCompletes
  | error f => exact .inl ⟨f, rfl⟩

theorem execSknp_failsOrCompletes (x : Nib) (s : State) : FailsOrCompletes (.sknp x) s (execSknp x s) := by
  unfold execSknp
  cases s.keyOperand x with
  | ok down => exact (Completes.skip (.sknp x) _).failsOrCompletes
  | error f => exact .inl ⟨f, rfl⟩

/-- `DXYN` fails by its address check or by its edge check. -/
theorem execDrw_failsOrCompletes (x y n : Nib) (s : State) : FailsOrCompletes (.drw x y n) s (execDrw x y n s) := by
  unfold execDrw
  cases s.readSpan n.toNat with
  | error f => exact .inl ⟨f, rfl⟩
  | ok rows =>
    dsimp only
    split
    · exact .inl ⟨_, rfl⟩
    · exact (Completes.drw x y n _ _).failsOrCompletes

theorem execLdB_failsOrCompletes (x : Nib) (s : State) : FailsOrCompletes (.ldB x) s (execLdB x s) := by
  unfold execLdB
  have hl := length_decimalDigits (s.reg x)
  rcases s.writeSpan_cases (decimalDigits (s.reg x)) with ⟨hw, hb⟩ | ⟨hw, -⟩
  · rw [hw]
    exact (Completes.ldB x hl (by omega)).failsOrCompletes
  · rw [hw]
    exact .inl ⟨_, rfl⟩

theorem execLdMemVx_failsOrCompletes (x : Nib) (s : State) :
    FailsOrCompletes (.ldMemVx x) s (execLdMemVx x s) := by
  unfold execLdMemVx
  have hl := s.length_regsUpTo x
  rcases s.writeSpan_cases (s.regsUpTo x) with ⟨hw, hb⟩ | ⟨hw, -⟩
  · rw [hw]
    exact (Completes.ldMemVx x hl (by omega)).failsOrCompletes
  · rw [hw]
    exact .inl ⟨_, rfl⟩

theorem execLdVxMem_failsOrCompletes (x : Nib) (s : State) :
    FailsOrCompletes (.ldVxMem x) s (execLdVxMem x s) := by
  unfold execLdVxMem
  cases checkSpan s.base (x.toNat + 1) with
  | ok _ => exact (Completes.ldVxMem x _).failsOrCompletes
  | error f => exact .inl ⟨f, rfl⟩

/-- `FX0A` waits when no key is down and writes V[x] otherwise; it does not fail. -/
theorem execLdVxK_failsOrCompletes (x : Nib) (s : State) : FailsOrCompletes (.ldVxK x) s (execLdVxK x s) := by
  unfold execLdVxK
  rcases selectKey_cases s.config.keySelect s.k with ⟨c, hc, -⟩ | ⟨hc, hk⟩
  · rw [hc]
    exact (Completes.writesReg .ldVxK _).failsOrCompletes
  · rw [hc]
    exact (Completes.keyWait x hk).failsOrCompletes

/-! ### Every instruction, and every cycle -/

/-- Every execute step takes a failure or completes. -/
theorem exec_failsOrCompletes (i : Instr) (s : State) : FailsOrCompletes i s (exec i s) := by
  cases i with
  | cls => exact Completes.cls.failsOrCompletes
  | ret => exact execRet_failsOrCompletes s
  | sys nnn => exact .inl ⟨_, rfl⟩
  | jp nnn => exact (Completes.jp nnn).failsOrCompletes
  | call nnn => exact execCall_failsOrCompletes nnn s
  | jpV0 nnn => exact (Completes.jpV0 nnn).failsOrCompletes
  | seImm x nn => exact (Completes.skip (.seImm x nn) _).failsOrCompletes
  | sneImm x nn => exact (Completes.skip (.sneImm x nn) _).failsOrCompletes
  | seReg x y n => exact (Completes.skip (.seReg x y n) _).failsOrCompletes
  | sneReg x y n => exact (Completes.skip (.sneReg x y n) _).failsOrCompletes
  | skp x => exact execSkp_failsOrCompletes x s
  | sknp x => exact execSknp_failsOrCompletes x s
  | ldImm x nn => exact (Completes.writesReg (.ldImm nn) _).failsOrCompletes
  | addImm x nn => exact (Completes.writesReg (.addImm nn) _).failsOrCompletes
  | ldReg x y => exact (Completes.writesReg (.ldReg y) _).failsOrCompletes
  | or x y => exact (Completes.writesReg (.or y) _).failsOrCompletes
  | and x y => exact (Completes.writesReg (.and y) _).failsOrCompletes
  | xor x y => exact (Completes.writesReg (.xor y) _).failsOrCompletes
  | rnd x nn => exact (Completes.writesReg (.rnd nn) _).failsOrCompletes
  | ldVxDt x => exact (Completes.writesReg .ldVxDt _).failsOrCompletes
  | ldVxK x => exact execLdVxK_failsOrCompletes x s
  | addReg x y => exact (Completes.addReg x y _ _).failsOrCompletes
  | sub x y => exact (Completes.flagThenReg (.sub y) _ _).failsOrCompletes
  | shr x y => exact (Completes.flagThenReg (.shr y) _ _).failsOrCompletes
  | subn x y => exact (Completes.flagThenReg (.subn y) _ _).failsOrCompletes
  | shl x y => exact (Completes.flagThenReg (.shl y) _ _).failsOrCompletes
  | drw x y n => exact execDrw_failsOrCompletes x y n s
  | ldDtVx x => exact (Completes.ldDtVx x).failsOrCompletes
  | ldStVx x => exact (Completes.ldStVx x).failsOrCompletes
  | ldI nnn => exact (Completes.ldI nnn).failsOrCompletes
  | addI x => exact (Completes.addI x).failsOrCompletes
  | ldF x => exact (Completes.ldF x).failsOrCompletes
  | ldB x => exact execLdB_failsOrCompletes x s
  | ldMemVx x => exact execLdMemVx_failsOrCompletes x s
  | ldVxMem x => exact execLdVxMem_failsOrCompletes x s

/-- Everything a cycle can do before its result is recorded and its timer step runs: it fails, in fetch, decode or
execute, and has changed nothing, or it completes the instruction at pc. -/
theorem step_failed_or_completed (h : step s = .next t) :
    ∃ u r, t = (u.setResult r).endCycle ∧
      ((u = s ∧ ∃ f, r = .failed f) ∨ (r = .ok ∧ ∃ i, s.fetchInstr = .ok i ∧ Completes s i u)) := by
  rcases step_next_cases h with ⟨i, u, hf, he, rfl⟩ | ⟨f, -, rfl⟩
  · rcases exec_failsOrCompletes i s with ⟨f, ho⟩ | ⟨w, hc, ho⟩
    · obtain rfl : s.setResult (.failed f) = u := Host.Outcome.next.inj (ho.symm.trans he)
      exact ⟨s, _, rfl, .inl ⟨rfl, f, rfl⟩⟩
    · obtain rfl : w.setResult .ok = u := Host.Outcome.next.inj (ho.symm.trans he)
      exact ⟨w, _, rfl, .inr ⟨rfl, i, hf, hc⟩⟩
  · exact ⟨s, _, rfl, .inl ⟨rfl, f, rfl⟩⟩

/-! ### What a completing instruction does to each cell -/

/-- R33: no instruction writes a key cell. -/
theorem Completes.k_eq (h : Completes s i u) : u.k = s.k := by cases h <;> simp

/-- R12: no instruction writes the configuration. -/
theorem Completes.config_eq (h : Completes s i u) : u.config = s.config := by cases h <;> simp

/-- R28, R56: memory stays, or the instruction stores a block of bytes at I. -/
theorem Completes.mem_cases (h : Completes s i u) :
    u.mem = s.mem ∨ ∃ x l, u.mem = (s.storeBytes s.base l).mem ∧ s.base + l.length ≤ 4096 ∧
      (i = .ldB x ∧ l.length = 3 ∨ i = .ldMemVx x ∧ l.length = x.toNat + 1) := by
  cases h with
  | ldB x hl hb => exact .inr ⟨x, _, rfl, by omega, .inl ⟨rfl, hl⟩⟩
  | ldMemVx x hl hb => exact .inr ⟨x, _, rfl, by omega, .inr ⟨rfl, hl⟩⟩
  | _ => exact .inl (by simp)

/-- R26: the stack stays, or a call appends pc + 2 below depth 16, or a return removes the last entry. -/
theorem Completes.stk_cases (h : Completes s i u) :
    u.stk = s.stk ∨ ((∃ nnn, i = .call nnn) ∧ s.stk.length < 16 ∧ u.stk = s.stk ++ [s.pc + 2#16]) ∨
      (i = .ret ∧ ∃ w, s.stk = u.stk ++ [w]) := by
  cases h with
  | call nnn hs => exact .inr (.inl ⟨⟨nnn, rfl⟩, hs, rfl⟩)
  | ret hs => exact .inr (.inr ⟨rfl, _, hs⟩)
  | _ => exact .inl (by simp)

/-- R25: I stays, or one of its three writers leaves the value the rule gives. -/
theorem Completes.i_cases (h : Completes s i u) :
    u.i = s.i ∨ (∃ nnn, i = .ldI nnn ∧ u.i = addrOperand nnn) ∨
      (∃ x, i = .addI x ∧ u.i = s.i + wideByte (s.reg x)) ∨
      (∃ x, i = .ldF x ∧ u.i = wideByte (s.reg x) * 5#16) := by
  cases h with
  | ldI nnn => exact .inr (.inl ⟨nnn, rfl, rfl⟩)
  | addI x => exact .inr (.inr (.inl ⟨x, rfl, rfl⟩))
  | ldF x => exact .inr (.inr (.inr ⟨x, rfl, rfl⟩))
  | _ => exact .inl (by simp)

/-- R27: DT stays, or FX15 leaves V[x] there. -/
theorem Completes.dt_cases (h : Completes s i u) : u.dt = s.dt ∨ ∃ x, i = .ldDtVx x ∧ u.dt = s.reg x := by
  cases h with
  | ldDtVx x => exact .inr ⟨x, rfl, rfl⟩
  | _ => exact .inl (by simp)

/-- R27: ST stays, or FX18 leaves V[x] there. -/
theorem Completes.st_cases (h : Completes s i u) : u.st = s.st ∨ ∃ x, i = .ldStVx x ∧ u.st = s.reg x := by
  cases h with
  | ldStVx x => exact .inr ⟨x, rfl, rfl⟩
  | _ => exact .inl (by simp)

/-- R23: the forms of a pc update. -/
theorem Completes.pc_cases (h : Completes s i u) :
    u.pc = s.pc + 2#16 ∨ (u.pc = s.pc + 4#16 ∧ IsSkip i) ∨
      (∃ nnn, u.pc = addrOperand nnn ∧ (i = .jp nnn ∨ i = .call nnn)) ∨
      (∃ nnn, i = .jpV0 nnn ∧ u.pc = addrOperand nnn + wideByte (s.reg 0x0#4)) ∨
      (i = .ret ∧ s.stk.getLast? = some u.pc) ∨
      (u.pc = s.pc ∧ ∃ x, i = .ldVxK x ∧ ∀ c, Keys.pressed s.k c = false) := by
  cases h with
  | skip hi c =>
    cases c with
    | true => exact .inr (.inl ⟨rfl, hi⟩)
    | false => exact .inl rfl
  | jp nnn => exact .inr (.inr (.inl ⟨nnn, rfl, .inl rfl⟩))
  | call nnn => exact .inr (.inr (.inl ⟨nnn, rfl, .inr rfl⟩))
  | jpV0 nnn => exact .inr (.inr (.inr (.inl ⟨nnn, rfl, rfl⟩)))
  | ret hs => exact .inr (.inr (.inr (.inr (.inl ⟨rfl, by simp [hs]⟩))))
  | keyWait x hk => exact .inr (.inr (.inr (.inr (.inr ⟨rfl, x, rfl, hk⟩))))
  | _ => exact .inl (by simp)

/-- R21: VF stays, or a flag writer leaves a flag there, or the instruction's destination is register F. -/
theorem Completes.vf_cases (h : Completes s i u) :
    u.reg vf = s.reg vf ∨
      ((∃ x y, i = .addReg x y ∨ (x ≠ vf ∧ WritesFlagThenReg x i) ∨ ∃ n, i = .drw x y n) ∧
        ∃ c, u.reg vf = flagByte c) ∨
      WritesFlagThenReg vf i ∨ WritesReg vf i ∨ i = .ldVxMem vf := by
  cases h with
  | addReg x y c b => exact .inr (.inl ⟨⟨x, y, .inl rfl⟩, c, by simp⟩)
  | drw x y n c e => exact .inr (.inl ⟨⟨x, y, .inr (.inr ⟨n, rfl⟩)⟩, c, by simp⟩)
  | @flagThenReg _ x hi c b =>
    by_cases hx : x = vf
    · exact .inr (.inr (.inl (hx ▸ hi)))
    · exact .inr (.inl ⟨⟨x, 0, .inr (.inl ⟨hx, hi⟩)⟩, c, by simp [Ne.symm hx]⟩)
  | @writesReg _ x hi b =>
    by_cases hx : x = vf
    · exact .inr (.inr (.inr (.inl (hx ▸ hi))))
    · exact .inl (by simp [Ne.symm hx])
  | ldVxMem x f =>
    by_cases hx : x = vf
    · exact .inr (.inr (.inr (.inr (by rw [hx]))))
    · have hn : ¬ vf.toNat < x.toNat + 1 := fun hlt =>
        hx (BitVec.eq_of_toNat_eq (Nat.le_antisymm (Nat.le_of_lt_succ x.isLt) (Nat.le_of_lt_succ hlt)))
      exact .inl (by rw [State.reg_advance, State.reg_setRegs (by omega), if_neg hn])
  | _ => exact .inl (by simp)

/-! ### The invariants do not speak of results, timers or inputs -/

@[simp] theorem State.inv_setResult (r : CycleResult) : (s.setResult r).Inv ↔ s.Inv := by simp [State.Inv]
@[simp] theorem State.inv_endCycle : s.endCycle.Inv ↔ s.Inv := by simp [State.Inv]
@[simp] theorem State.pcInReach_setResult (r : CycleResult) : (s.setResult r).PcInReach ↔ s.PcInReach := by
  simp [State.PcInReach]
@[simp] theorem State.pcInReach_endCycle : s.endCycle.PcInReach ↔ s.PcInReach := by simp [State.PcInReach]

/-! ### The invariants over one completing instruction -/

/-- A byte is what memory and the block's font make it. -/
theorem State.byteAt_eq_of_mem (hm : t.mem = u.mem) (hc : t.config = u.config) (a : Nat) :
    t.byteAt a = u.byteAt a := by
  unfold State.byteAt
  rw [hm, hc]

/-- The state space of R37 depends on memory, the font and the stack only. -/
theorem Completes.inv (h : Completes s i u) (hs : s.Inv) : u.Inv := by
  obtain ⟨hmem, hstk⟩ := hs
  constructor
  · rw [h.config_eq]
    rcases h.mem_cases with hm | ⟨x, l, hm, hl, -⟩
    · rwa [hm]
    · rw [hm]
      exact State.storeBytes_wf hl hmem
  · rcases h.stk_cases with hu | ⟨-, hlt, hu⟩ | ⟨-, w, hu⟩
    · rwa [hu]
    · rw [hu, List.length_append]
      exact hlt
    · rw [hu, List.length_append] at hstk
      omega

/-- R221: an instruction is fetched only from a pc of at most 0xFFE. -/
theorem State.pc_le_of_fetchInstr_ok (h : s.fetchInstr = .ok i) : s.pc.toNat ≤ 0xFFE := by
  by_contra hp
  unfold State.fetchInstr at h
  rw [State.fetchWord_error (by omega)] at h
  cases h

/-- NNN + V[0] as numbers: at most 0x10FE, so never reduced (R105). -/
theorem addrOperand_add_wideByte_toNat (nnn : Addr12) (b : Byte) :
    (addrOperand nnn + wideByte b).toNat = nnn.toNat + b.toNat := by
  have := nnn.isLt
  have := b.isLt
  rw [BitVec.toNat_add, addrOperand_toNat, wideByte_toNat]
  omega

/-- pc stays in reach: it advances from at most 0xFFE, or is NNN, NNN + V[0] or a saved address. -/
theorem Completes.pc_le (h : Completes s i u) (hf : s.pc.toNat ≤ 0xFFE) (hs : ∀ w ∈ s.stk, w.toNat ≤ 0x1000) :
    u.pc.toNat ≤ 0x10FE := by
  rcases h.pc_cases with hu | ⟨hu, -⟩ | ⟨nnn, hu, -⟩ | ⟨nnn, -, hu⟩ | ⟨-, hu⟩ | ⟨hu, -⟩
  · rw [hu, BitVec.toNat_add, BitVec.toNat_ofNat]
    omega
  · rw [hu, BitVec.toNat_add, BitVec.toNat_ofNat]
    omega
  · have := nnn.isLt
    rw [hu, addrOperand_toNat]
    omega
  · have := nnn.isLt
    have := (s.reg 0x0#4).isLt
    rw [hu, addrOperand_add_wideByte_toNat]
    omega
  · have := hs _ (List.mem_of_getLast? hu)
    omega
  · rw [hu]
    omega

/-- A saved address stays at most 0x1000: the only one added is pc + 2, from a pc of at most 0xFFE. -/
theorem Completes.stk_le (h : Completes s i u) (hf : s.pc.toNat ≤ 0xFFE) (hs : ∀ w ∈ s.stk, w.toNat ≤ 0x1000) :
    ∀ w ∈ u.stk, w.toNat ≤ 0x1000 := by
  intro w hw
  rcases h.stk_cases with hu | ⟨-, -, hu⟩ | ⟨-, v, hu⟩
  · exact hs w (hu ▸ hw)
  · rw [hu, List.mem_append, List.mem_singleton] at hw
    rcases hw with hw | rfl
    · exact hs w hw
    · rw [BitVec.toNat_add, BitVec.toNat_ofNat]
      omega
  · exact hs w (hu ▸ List.mem_append_left [v] hw)

/-- Settles O19: a failure leaves memory and stack, and each completing instruction keeps the state space. -/
theorem stepKeepsInv : Obligations.StepKeepsInv := by
  intro s t hs h
  obtain ⟨u, r, rfl, hu⟩ := step_failed_or_completed h
  simp only [State.inv_endCycle, State.inv_setResult]
  rcases hu with ⟨rfl, -⟩ | ⟨-, i, -, hc⟩
  · exact hs
  · exact hc.inv hs

/-- Settles O20: a failure leaves pc and stack, and an instruction that completes was fetched from at most 0xFFE. -/
theorem stepKeepsPcInReach : Obligations.StepKeepsPcInReach := by
  intro s t ⟨hpc, hstk⟩ h
  obtain ⟨u, r, rfl, hu⟩ := step_failed_or_completed h
  simp only [State.pcInReach_endCycle, State.pcInReach_setResult]
  rcases hu with ⟨rfl, -⟩ | ⟨-, i, hf, hc⟩
  · exact ⟨hpc, hstk⟩
  · have hle := State.pc_le_of_fetchInstr_ok hf
    exact ⟨hc.pc_le hle hstk, hc.stk_le hle hstk⟩

/-- Settles O25: neither a failure nor a completing instruction writes keys or configuration. -/
theorem cycleLeavesKeysAndConfig : Obligations.CycleLeavesKeysAndConfig := by
  intro s t h
  obtain ⟨u, r, rfl, hu⟩ := step_failed_or_completed h
  simp only [State.endCycle_k, State.setResult_k, State.endCycle_config, State.setResult_config]
  rcases hu with ⟨rfl, -⟩ | ⟨-, i, -, hc⟩
  · exact ⟨rfl, rfl⟩
  · exact ⟨hc.k_eq, hc.config_eq⟩

/-- A byte that a completing instruction changes lies in the block it stored, which lies in memory. -/
theorem Completes.span_of_byteAt_ne (h : Completes s i u) {a : Nat} (ha : u.byteAt a ≠ s.byteAt a) :
    ∃ x l, s.base ≤ a ∧ a < s.base + l ∧ s.base + l ≤ 4096 ∧
      (i = .ldB x ∧ l = 3 ∨ i = .ldMemVx x ∧ l = x.toNat + 1) := by
  rcases h.mem_cases with hm | ⟨x, l, hm, hl, hi⟩
  · exact absurd (State.byteAt_eq_of_mem hm h.config_eq a) ha
  · have hu : u.byteAt a = (s.storeBytes s.base l).byteAt a :=
      State.byteAt_eq_of_mem hm (h.config_eq.trans (State.storeBytes_config _ _).symm) a
    by_cases hin : s.base ≤ a ∧ a < s.base + l.length
    · exact ⟨x, l.length, hin.1, hin.2, hl, hi⟩
    · rw [hu, State.byteAt_storeBytes, if_neg hin] at ha
      exact absurd rfl ha

/-- Settles O26: a failure changes no byte, and a completing instruction only bytes of the block it stores. -/
theorem onlyStoresChangeMemory : Obligations.OnlyStoresChangeMemory := by
  intro s t a h ha
  obtain ⟨u, r, rfl, hu⟩ := step_failed_or_completed h
  simp only [State.byteAt_endCycle, State.byteAt_setResult] at ha
  rcases hu with ⟨rfl, -⟩ | ⟨-, i, hf, hc⟩
  · exact absurd rfl ha
  · obtain ⟨x, l, hlo, hhi, hb, ⟨rfl, rfl⟩ | ⟨rfl, rfl⟩⟩ := hc.span_of_byteAt_ne ha
    · exact ⟨x, .inl ⟨hf, hlo, by omega, by omega⟩⟩
    · exact ⟨x, .inr ⟨hf, hlo, by omega, by omega⟩⟩

/-- Settles O28: call and return are the two writers of the stack. -/
theorem onlyCallAndRetChangeStack : Obligations.OnlyCallAndRetChangeStack := by
  intro s t h hne
  obtain ⟨u, r, rfl, hu⟩ := step_failed_or_completed h
  simp only [State.endCycle_stk, State.setResult_stk] at hne ⊢
  rcases hu with ⟨rfl, -⟩ | ⟨-, i, hf, hc⟩
  · exact absurd rfl hne
  · rcases hc.stk_cases with hu | ⟨⟨nnn, rfl⟩, -, hu⟩ | ⟨rfl, hw⟩
    · exact absurd hu hne
    · exact .inl ⟨⟨nnn, hf⟩, hu⟩
    · exact .inr ⟨hf, hw⟩

/-- Settles O29: the three writers of I; V[x] * 5 is at most 1275, so it is not reduced. -/
theorem onlyThreeInstructionsWriteI : Obligations.OnlyThreeInstructionsWriteI := by
  intro s t h hne
  obtain ⟨u, r, rfl, hu⟩ := step_failed_or_completed h
  simp only [State.endCycle_i, State.setResult_i] at hne ⊢
  rcases hu with ⟨rfl, -⟩ | ⟨-, i, hf, hc⟩
  · exact absurd rfl hne
  · rcases hc.i_cases with hu | ⟨nnn, rfl, hu⟩ | ⟨x, rfl, hu⟩ | ⟨x, rfl, hu⟩
    · exact absurd hu hne
    · exact .inl ⟨nnn, hf, by rw [hu, addrOperand_toNat]⟩
    · exact .inr (.inl ⟨x, hf, by rw [hu, BitVec.toNat_add, wideByte_toNat]⟩)
    · refine .inr (.inr ⟨x, hf, ?_⟩)
      have := (s.reg x).isLt
      rw [hu, BitVec.toNat_mul, wideByte_toNat, BitVec.toNat_ofNat]
      omega

/-- A flag is 0 or 1 (R21). -/
theorem flagByte_eq_zero_or_one (c : Bool) : flagByte c = 0#8 ∨ flagByte c = 1#8 := by
  cases c with
  | false => exact .inl rfl
  | true => exact .inr rfl

/-- Settles O30: the writers of VF, by how they come to write it. -/
theorem vfWritersExactly : Obligations.VfWritersExactly := by
  intro s t h hne
  obtain ⟨u, r, rfl, hu⟩ := step_failed_or_completed h
  simp only [State.reg_endCycle, State.reg_setResult] at hne ⊢
  rcases hu with ⟨rfl, -⟩ | ⟨-, i, hf, hc⟩
  · exact absurd rfl hne
  · rcases hc.vf_cases with hu | ⟨hi, c, hu⟩ | hi | hi | rfl
    · exact absurd hu hne
    · have hflag : u.reg vf = 0#8 ∨ u.reg vf = 1#8 := hu ▸ flagByte_eq_zero_or_one c
      rcases hi with ⟨x, y, rfl | ⟨hx, hi⟩ | ⟨n, rfl⟩⟩
      · exact .inl ⟨x, y, .inl hf, hflag⟩
      · cases hi with
        | sub y => exact .inl ⟨x, y, .inr (.inl ⟨hx, .inl hf⟩), hflag⟩
        | shr y => exact .inl ⟨x, y, .inr (.inl ⟨hx, .inr (.inl hf)⟩), hflag⟩
        | subn y => exact .inl ⟨x, y, .inr (.inl ⟨hx, .inr (.inr (.inl hf))⟩), hflag⟩
        | shl y => exact .inl ⟨x, y, .inr (.inl ⟨hx, .inr (.inr (.inr hf))⟩), hflag⟩
      · exact .inl ⟨x, y, .inr (.inr ⟨n, hf⟩), hflag⟩
    · cases hi with
      | sub y | shr y | subn y | shl y => exact .inr (.inl ⟨y, by simp [hf, vf]⟩)
    · cases hi with
      | ldReg y | or y | and y | xor y => exact .inr (.inl ⟨y, by simp [hf, vf]⟩)
      | ldImm nn | addImm nn | rnd nn => exact .inr (.inr (.inl ⟨nn, by simp [hf, vf]⟩))
      | ldVxDt => exact .inr (.inr (.inr (.inl hf)))
      | ldVxK => exact .inr (.inr (.inr (.inr (.inl hf))))
    · exact .inr (.inr (.inr (.inr (.inr hf))))

/-- The skips and their operands, as `Obligations.PcUpdateForms` lists them. -/
theorem IsSkip.exists_operands (h : IsSkip i) : ∃ x y n nn,
    i = .seImm x nn ∨ i = .sneImm x nn ∨ i = .seReg x y n ∨ i = .sneReg x y n ∨ i = .skp x ∨ i = .sknp x := by
  cases h with
  | seImm x nn => exact ⟨x, 0, 0, nn, .inl rfl⟩
  | sneImm x nn => exact ⟨x, 0, 0, nn, .inr (.inl rfl)⟩
  | seReg x y n => exact ⟨x, y, n, 0, .inr (.inr (.inl rfl))⟩
  | sneReg x y n => exact ⟨x, y, n, 0, .inr (.inr (.inr (.inl rfl)))⟩
  | skp x => exact ⟨x, 0, 0, 0, .inr (.inr (.inr (.inr (.inl rfl))))⟩
  | sknp x => exact ⟨x, 0, 0, 0, .inr (.inr (.inr (.inr (.inr rfl))))⟩

/-- Settles O31: a failure leaves pc, and a completing instruction updates it in one of the listed forms. -/
theorem pcUpdateForms : Obligations.PcUpdateForms := by
  intro s t h
  obtain ⟨u, r, rfl, hu⟩ := step_failed_or_completed h
  simp only [State.endCycle_pc, State.setResult_pc, State.endCycle_result, State.setResult_result]
  rcases hu with ⟨rfl, hr⟩ | ⟨-, i, hf, hc⟩
  · exact .inr (.inr (.inr (.inr (.inr ⟨rfl, .inl hr⟩))))
  · simp only [hf, Except.ok.injEq]
    rcases hc.pc_cases with hu | ⟨hu, hi⟩ | ⟨nnn, hu, hi⟩ | ⟨nnn, hi, hu⟩ | hret | ⟨hu, hi⟩
    · exact .inl (by rw [hu, BitVec.toNat_add]; rfl)
    · exact .inr (.inl ⟨by rw [hu, BitVec.toNat_add]; rfl, hi.exists_operands⟩)
    · exact .inr (.inr (.inl ⟨nnn, by rw [hu, addrOperand_toNat], hi⟩))
    · exact .inr (.inr (.inr (.inl ⟨nnn, hi, by rw [hu, addrOperand_add_wideByte_toNat]⟩)))
    · exact .inr (.inr (.inr (.inr (.inl hret))))
    · exact .inr (.inr (.inr (.inr (.inr ⟨hu, .inr hi⟩))))

/-- Settles O32: the timer step counts down what the execute step left, which is the old value but for the one
writer. -/
theorem timersCountDownUnlessWritten : Obligations.TimersCountDownUnlessWritten := by
  intro s t h
  obtain ⟨u, r, rfl, hu⟩ := step_failed_or_completed h
  simp only [State.endCycle_dt, State.endCycle_st, State.setResult_dt, State.setResult_st, countDown_toNat]
  rcases hu with ⟨rfl, -⟩ | ⟨-, i, hf, hc⟩
  · exact ⟨.inl rfl, .inl rfl⟩
  · constructor
    · rcases hc.dt_cases with hu | ⟨x, rfl, hu⟩
      · exact .inl (by rw [hu])
      · exact .inr ⟨x, hf, by rw [hu]⟩
    · rcases hc.st_cases with hu | ⟨x, rfl, hu⟩
      · exact .inl (by rw [hu])
      · exact .inr ⟨x, hf, by rw [hu]⟩

/-! ### Reset -/

/-- Memory that lists nothing reads as its reset contents. -/
theorem State.byteAt_of_mem_nil (h : s.mem = []) (a : Nat) : s.byteAt a = unlistedByte s.config.font a := by
  simp [State.byteAt, h, Memory.byte, Memory.lookup]

/-- FONT lies below 0x050. -/
theorem unlistedByte_font (font : Vector Byte 80) {a : Nat} (h : a < 0x050) : unlistedByte font a = font[a] :=
  dif_pos h

/-- Above FONT memory is reset to 0. -/
theorem unlistedByte_zero (font : Vector Byte 80) {a : Nat} (h : 0x050 ≤ a) : unlistedByte font a = 0x00#8 :=
  dif_neg (Nat.not_lt.mpr h)

/-- Construction and host reset leave the reset state of the block's configuration, but for the free input. -/
theorem State.eq_resetWith_of_reset (h : t = State.reset ∨ t = s.hostReset) :
    ∃ c b n, t = { State.resetWith c with rand := b, draws := n } := by
  rcases h with rfl | rfl
  · exact ⟨defaultConfig, Config.randByte 0, 1, rfl⟩
  · exact ⟨s.config, s.rand, s.draws, rfl⟩

/-- Settles O17: reset memory lists nothing, every other cell is written out by `State.resetWith`. -/
theorem resetValues : Obligations.ResetValues := by
  intro s t h
  obtain ⟨c, b, n, rfl⟩ := State.eq_resetWith_of_reset h
  refine ⟨fun r => ?_, rfl, rfl, rfl, rfl, rfl, fun a ha => ?_, fun a ha _ => ?_, fun x y => ?_, rfl⟩
  · simp [State.reg, State.resetWith]
  · rw [State.byteAt_of_mem_nil rfl, unlistedByte_font _ ha]
  · rw [State.byteAt_of_mem_nil rfl, unlistedByte_zero _ ha]
  · simp [State.pixel, State.resetWith]

/-- Settles O18: no cell listed, no entry on the stack, pc at 0x200. -/
theorem resetMeetsInvariants : Obligations.ResetMeetsInvariants :=
  ⟨⟨Memory.nil_wf, Nat.zero_le 16⟩, by decide, fun _ hw => absurd hw List.not_mem_nil⟩

end Sys2Proof.Machine

namespace Sys2Proof.Machine

variable {s t : State}

/-! ### The two bytes of a fetched word (20_memory.md R51) -/

theorem wordOfBytes_toNat_div (hi lo : Byte) : (wordOfBytes hi lo).toNat / 0x100 = hi.toNat := by
  have := lo.isLt
  rw [wordOfBytes_toNat]
  omega

theorem wordOfBytes_toNat_mod (hi lo : Byte) : (wordOfBytes hi lo).toNat % 0x100 = lo.toNat := by
  have := lo.isLt
  rw [wordOfBytes_toNat]
  omega

/-! ### The registers stored by FX55 (43_index_memory.md R174) -/

/-- The block of stored bytes holds V[r] at offset r. -/
theorem State.getD_regsUpTo {x r : Nib} (h : r.toNat ≤ x.toNat) : (s.regsUpTo x).getD r.toNat 0#8 = s.reg r := by
  have hr : r.toNat < x.toNat + 1 := Nat.lt_succ_of_le h
  simp [State.regsUpTo, hr]

theorem State.byteAt_storeRegs_inside {x r : Nib} (h : r.toNat ≤ x.toNat) :
    (s.storeBytes s.base (s.regsUpTo x)).byteAt (s.base + r.toNat) = s.reg r := by
  have hin : s.base ≤ s.base + r.toNat ∧ s.base + r.toNat < s.base + (s.regsUpTo x).length := by
    rw [State.length_regsUpTo]
    omega
  rw [State.byteAt_storeBytes, if_pos hin, Nat.add_sub_cancel_left, State.getD_regsUpTo h]

theorem State.byteAt_storeRegs_outside {x : Nib} {a : Nat} (h : a < s.base ∨ s.base + x.toNat < a) :
    (s.storeBytes s.base (s.regsUpTo x)).byteAt a = s.byteAt a := by
  have hout : ¬ (s.base ≤ a ∧ a < s.base + (s.regsUpTo x).length) := by
    rw [State.length_regsUpTo]
    omega
  rw [State.byteAt_storeBytes, if_neg hout]

/-- Everything `FX55` can do: it stores V[0] to V[X] where the span lies in memory, and fails otherwise. -/
theorem execLdMemVx_cases (x : Nib) (s : State) :
    (s.base + x.toNat ≤ 0xFFF ∧
      execLdMemVx x s = (s.storeBytes s.base (s.regsUpTo x)).advance.complete) ∨
    (0xFFF < s.base + x.toNat ∧
      execLdMemVx x s = s.takeFailure (.addressOutOfRange (max s.base 0x1000))) := by
  unfold execLdMemVx
  have hl := s.length_regsUpTo x
  rcases s.writeSpan_cases (s.regsUpTo x) with ⟨hw, hb⟩ | ⟨hw, -, hb⟩
  · rw [hw]
    exact .inl ⟨by omega, rfl⟩
  · rw [hw]
    exact .inr ⟨by omega, rfl⟩

/-- A cycle that executes `FX55` with result Ok has stored the registers and nothing else in memory. -/
theorem byteAt_step_ldMemVx {x : Nib} (hf : s.fetchInstr = .ok (.ldMemVx x)) (h : step s = .next t)
    (hr : t.result = .ok) (a : Nat) : t.byteAt a = (s.storeBytes s.base (s.regsUpTo x)).byteAt a := by
  have hstep : endOutcome (execLdMemVx x s) = .next t := (step_of_fetched hf).symm.trans h
  rcases execLdMemVx_cases x s with ⟨-, he⟩ | ⟨-, he⟩
  · rw [he, State.complete_eq, endOutcome_next] at hstep
    obtain rfl := Host.Outcome.next.inj hstep
    simp
  · rw [he, State.takeFailure_eq, endOutcome_next] at hstep
    obtain rfl := Host.Outcome.next.inj hstep
    cases hr

/-- Settles O52: the next fetch reads memory as the store left it, byte by byte. -/
theorem storeSeenByNextFetch : Obligations.StoreSeenByNextFetch := by
  intro x s t hf h hr hpc
  have ht := byteAt_step_ldMemVx hf h hr
  refine ⟨_, State.fetchWord_ok hpc, fun r hrx ha => ?_, fun r hrx ha => ?_, fun ha => ?_, fun ha => ?_⟩
  · rw [wordOfBytes_toNat_div, ← ha, ht, State.byteAt_storeRegs_inside hrx]
  · rw [wordOfBytes_toNat_mod, ← ha, ht, State.byteAt_storeRegs_inside hrx]
  · rw [wordOfBytes_toNat_div, ht, State.byteAt_storeRegs_outside ha]
  · rw [wordOfBytes_toNat_mod, ht, State.byteAt_storeRegs_outside ha]

end Sys2Proof.Machine

namespace Sys2Proof

/-! ### Words and their fields (30_encoding.md R70, R71) -/

section Fields
variable {w : Word16}

/-- A word is its OP and NNN. -/
theorem formatNNN_of_fields {op : Nib} (hop : opField w = op) : formatNNN op (nnnField w) = w :=
  BitVec.eq_of_toNat_eq (by subst hop; simp; omega)

/-- A word is its OP, X and NN. -/
theorem formatXNN_of_fields {op : Nib} {nn : Byte} (hop : opField w = op) (hnn : nnField w = nn) :
    formatXNN op (xField w) nn = w :=
  BitVec.eq_of_toNat_eq (by subst hop hnn; simp; omega)

/-- A word is its OP, X, Y and N. -/
theorem formatXYN_of_fields {op n : Nib} (hop : opField w = op) (hn : nField w = n) :
    formatXYN op (xField w) (yField w) n = w :=
  BitVec.eq_of_toNat_eq (by subst hop hn; simp; omega)

@[simp] theorem opField_and (v w : Word16) : opField (v &&& w) = opField v &&& opField w := by
  simp [opField, BitVec.extractLsb'_and]

@[simp] theorem xField_and (v w : Word16) : xField (v &&& w) = xField v &&& xField w := by
  simp [xField, BitVec.extractLsb'_and]

@[simp] theorem yField_and (v w : Word16) : yField (v &&& w) = yField v &&& yField w := by
  simp [yField, BitVec.extractLsb'_and]

@[simp] theorem nField_and (v w : Word16) : nField (v &&& w) = nField v &&& nField w := by
  simp [nField, BitVec.extractLsb'_and]

@[simp] theorem nnField_and (v w : Word16) : nnField (v &&& w) = nnField v &&& nnField w := by
  simp [nnField, BitVec.extractLsb'_and]

@[simp] theorem nnnField_and (v w : Word16) : nnnField (v &&& w) = nnnField v &&& nnnField w := by
  simp [nnnField, BitVec.extractLsb'_and]

theorem formatNNN_and (op : Nib) (nnn : Addr12) (m : Word16) :
    formatNNN op nnn &&& m = formatNNN (op &&& opField m) (nnn &&& nnnField m) := by
  rw [← formatNNN_of_fields (w := formatNNN op nnn &&& m) rfl]
  simp

theorem formatXNN_and (op x : Nib) (nn : Byte) (m : Word16) :
    formatXNN op x nn &&& m = formatXNN (op &&& opField m) (x &&& xField m) (nn &&& nnField m) := by
  rw [← formatXNN_of_fields (w := formatXNN op x nn &&& m) rfl rfl]
  simp

theorem formatXYN_and (op x y n : Nib) (m : Word16) :
    formatXYN op x y n &&& m =
      formatXYN (op &&& opField m) (x &&& xField m) (y &&& yField m) (n &&& nField m) := by
  rw [← formatXYN_of_fields (w := formatXYN op x y n &&& m) rfl rfl]
  simp

end Fields

/-! ### Decoding the word of an instruction -/

/-- Group 0 decodes to SYS but for the two words of R74. -/
theorem decodeGroup0_eq_sys {w : Word16} (hcls : nnnField w ≠ 0x0E0#12) (hret : nnnField w ≠ 0x0EE#12) :
    decodeGroup0 w = .sys (nnnField w) := by
  unfold decodeGroup0
  split
  · contradiction
  · contradiction
  · rfl

/-- Settles O2: the decoder dispatches on the fields that the encoder's format of R71 has put there. -/
theorem decodeOfEncode : Obligations.DecodeOfEncode := by
  intro i hi
  cases i with
  | cls | ret => rfl
  | sys nnn =>
    have hnnn : nnn ≠ 0x0E0#12 ∧ nnn ≠ 0x0EE#12 := by simpa [Instr.wellFormed] using hi
    simp [encode, decodeWord, decodeGroup0_eq_sys, hnnn]
  | jp nnn | call nnn | ldI nnn | jpV0 nnn => simp [encode, decodeWord]
  | seImm x nn | sneImm x nn | ldImm x nn | addImm x nn | rnd x nn => simp [encode, decodeWord]
  | seReg x y n | sneReg x y n | drw x y n => simp [encode, decodeWord]
  | ldReg x y | or x y | and x y | xor x y | addReg x y | sub x y | shr x y | subn x y | shl x y =>
    simp [encode, decodeWord, decodeGroup8]
  | skp x | sknp x => simp [encode, decodeWord, decodeGroupE]
  | ldVxDt x | ldVxK x | ldDtVx x | ldStVx x | addI x | ldF x | ldB x | ldMemVx x | ldVxMem x =>
    simp [encode, decodeWord, decodeGroupF]

/-! ### Everything the decoder can answer (R73 to R81) -/

/-- The three parts of the 65536 words (R81). -/
inductive WordKind where
  | executable
  | sys
  | unrecognised
  deriving DecidableEq

/-- SYS is the one class that is not executable (R80, R81). -/
def Instr.kind : Instr → WordKind
  | .sys _ => .sys
  | _ => .executable

/-- The words 00E0 and 00EE of group 0 (R74). -/
def fixedNNN : List Nat := [0x0E0, 0x0EE]
/-- The values of N that have no entry in group 8 (R75, R79). -/
def unrecognisedN : List Nat := [0x8, 0x9, 0xA, 0xB, 0xC, 0xD, 0xF]
/-- The values of NN that have an entry in group E (R76). -/
def groupENN : List Nat := [0x9E, 0xA1]
/-- The values of NN that have an entry in group F (R77). -/
def groupFNN : List Nat := [0x07, 0x0A, 0x15, 0x18, 0x1E, 0x29, 0x33, 0x55, 0x65]

/-- The part to which OP and NNN put a word, from the lists of R74 to R80 and not from the decoder
(`decodeWord_answers` ties the two). -/
def groupKind (op nnn : Nat) : WordKind :=
  match op with
  | 0x0 => if nnn ∈ fixedNNN then .executable else .sys
  | 0x8 => if nnn % 0x10 ∈ unrecognisedN then .unrecognised else .executable
  | 0xE => if nnn % 0x100 ∈ groupENN then .executable else .unrecognised
  | 0xF => if nnn % 0x100 ∈ groupFNN then .executable else .unrecognised
  | _ => .executable

/-- The part to which a word belongs. -/
def wordKind (w : Word16) : WordKind := groupKind (opField w).toNat (nnnField w).toNat

/-- What decoding `w` may answer, and the part of the words to which the answer puts `w`. -/
inductive DecoderAnswers (w : Word16) : Except DecodeError Instr → WordKind → Prop where
  | ok {i : Instr} (hw : encode i = w) (hwf : i.wellFormed = true) : DecoderAnswers w (.ok i) i.kind
  | error : DecoderAnswers w (.error (.codeNotRecognised w)) .unrecognised

section DecoderAnswers
variable {w : Word16}

theorem decodeGroup0_answers (hop : opField w = 0x0#4) : DecoderAnswers w (.ok (decodeGroup0 w)) (wordKind w) := by
  have hk : wordKind w = if (nnnField w).toNat ∈ fixedNNN then .executable else .sys := by
    rw [wordKind, hop]; rfl
  have hw := formatNNN_of_fields hop
  unfold decodeGroup0
  rw [hk]
  split
  case h_1 h => rw [h] at hw ⊢; exact .ok (i := .cls) hw rfl
  case h_2 h => rw [h] at hw ⊢; exact .ok (i := .ret) hw rfl
  case h_3 hcls hret =>
    have hn : (nnnField w).toNat ∉ fixedNNN := by
      simpa [fixedNNN, BitVec.toNat_eq] using And.intro hcls hret
    rw [if_neg hn]
    exact .ok (i := .sys _) hw (by simpa [Instr.wellFormed] using And.intro hcls hret)

theorem decodeGroup8_answers (hop : opField w = 0x8#4) : DecoderAnswers w (decodeGroup8 w) (wordKind w) := by
  have hk : wordKind w = if (nField w).toNat ∈ unrecognisedN then .unrecognised else .executable := by
    simp [wordKind, hop, groupKind]
  unfold decodeGroup8
  rw [hk]
  split
  case h_10 =>
    have hn : (nField w).toNat ∈ unrecognisedN := by
      clear hk hop
      generalize nField w = n at *
      revert n
      decide
    rw [if_pos hn]
    exact .error
  all_goals
    rename_i hn
    rw [hn]
    exact .ok (formatXYN_of_fields hop hn) rfl

theorem decodeGroupE_answers (hop : opField w = 0xE#4) : DecoderAnswers w (decodeGroupE w) (wordKind w) := by
  have hk : wordKind w = if (nnField w).toNat ∈ groupENN then .executable else .unrecognised := by
    simp [wordKind, hop, groupKind]
  unfold decodeGroupE
  rw [hk]
  split
  case h_3 hskp hsknp =>
    have hn : (nnField w).toNat ∉ groupENN := by simpa [groupENN, BitVec.toNat_eq] using And.intro hskp hsknp
    rw [if_neg hn]
    exact .error
  all_goals
    rename_i hn
    rw [hn]
    exact .ok (formatXNN_of_fields hop hn) rfl

theorem decodeGroupF_answers (hop : opField w = 0xF#4) : DecoderAnswers w (decodeGroupF w) (wordKind w) := by
  have hk : wordKind w = if (nnField w).toNat ∈ groupFNN then .executable else .unrecognised := by
    simp [wordKind, hop, groupKind]
  unfold decodeGroupF
  rw [hk]
  split
  case h_10 =>
    have hn : (nnField w).toNat ∉ groupFNN := by simp_all [groupFNN, BitVec.toNat_eq]
    rw [if_neg hn]
    exact .error
  all_goals
    rename_i hn
    rw [hn]
    exact .ok (formatXNN_of_fields hop hn) rfl

/-- Everything the decoder can answer. -/
theorem decodeWord_answers (w : Word16) : DecoderAnswers w (decodeWord w) (wordKind w) := by
  unfold decodeWord
  split
  case h_1 hop => exact decodeGroup0_answers hop
  case h_9 hop => exact decodeGroup8_answers hop
  case h_15 hop => exact decodeGroupE_answers hop
  case h_16 hop => exact decodeGroupF_answers hop
  case h_2 hop | h_3 hop | h_11 hop | h_12 hop =>
    rw [wordKind, hop]
    exact .ok (formatNNN_of_fields hop) rfl
  case h_4 hop | h_5 hop | h_7 hop | h_8 hop | h_13 hop =>
    rw [wordKind, hop]
    exact .ok (formatXNN_of_fields hop rfl) rfl
  case h_6 hop | h_10 hop | h_14 hop =>
    rw [wordKind, hop]
    exact .ok (formatXYN_of_fields hop rfl) rfl
  case h_17 =>
    exfalso
    generalize opField w = op at *
    revert op
    decide

/-- The same as two cases: the instruction whose word `w` is, or the failure that carries `w`. -/
theorem decodeWord_cases (w : Word16) :
    (∃ i, decodeWord w = .ok i ∧ encode i = w ∧ i.wellFormed = true ∧ wordKind w = i.kind) ∨
      (decodeWord w = .error (.codeNotRecognised w) ∧ wordKind w = .unrecognised) := by
  have h := decodeWord_answers w
  generalize decodeWord w = r, wordKind w = k at h
  cases h with
  | @ok i hw hwf => exact .inl ⟨i, rfl, hw, hwf, rfl⟩
  | error => exact .inr ⟨rfl, rfl⟩

end DecoderAnswers

/-- Settles O3: the two facts are part of what the decoder can answer. -/
theorem encodeOfDecode : Obligations.EncodeOfDecode := by
  intro w i h
  rcases decodeWord_cases w with ⟨j, hj, hw, hwf, -⟩ | ⟨he, -⟩
  · obtain rfl := Except.ok.inj (hj.symm.trans h)
    exact ⟨hw, hwf⟩
  · cases he.symm.trans h

end Sys2Proof

namespace Sys2Proof

/-! ### The opcode map (section 4 of 30_encoding.md) -/

/-! Each mask keeps the fields of its row that select, and clears the others. -/

theorem formatNNN_and_F000 (op : Nib) (nnn : Addr12) : formatNNN op nnn &&& 0xF000#16 = formatNNN op 0x000#12 := by
  rw [formatNNN_and, show opField 0xF000#16 = BitVec.allOnes 4 by decide, show nnnField 0xF000#16 = 0#12 by decide,
    BitVec.and_allOnes, BitVec.and_zero]

theorem formatXNN_and_F000 (op x : Nib) (nn : Byte) : formatXNN op x nn &&& 0xF000#16 = formatNNN op 0x000#12 := by
  rw [← formatNNN_of_fields (opField_formatXNN op x nn), formatNNN_and_F000]

theorem formatXYN_and_F000 (op x y n : Nib) : formatXYN op x y n &&& 0xF000#16 = formatNNN op 0x000#12 := by
  rw [← formatNNN_of_fields (opField_formatXYN op x y n), formatNNN_and_F000]

theorem formatXNN_and_F0FF (op x : Nib) (nn : Byte) : formatXNN op x nn &&& 0xF0FF#16 = formatXNN op 0x0#4 nn := by
  rw [formatXNN_and, show opField 0xF0FF#16 = BitVec.allOnes 4 by decide, show xField 0xF0FF#16 = 0#4 by decide,
    show nnField 0xF0FF#16 = BitVec.allOnes 8 by decide, BitVec.and_allOnes, BitVec.and_zero, BitVec.and_allOnes]

theorem formatXYN_and_F00F (op x y n : Nib) :
    formatXYN op x y n &&& 0xF00F#16 = formatXYN op 0x0#4 0x0#4 n := by
  rw [formatXYN_and, show opField 0xF00F#16 = BitVec.allOnes 4 by decide, show xField 0xF00F#16 = 0#4 by decide,
    show yField 0xF00F#16 = 0#4 by decide, show nField 0xF00F#16 = BitVec.allOnes 4 by decide]
  simp only [BitVec.and_allOnes, BitVec.and_zero]

/-- The word of an instruction lies in the instruction's row. -/
theorem encode_and_rowMask (i : Instr) : encode i &&& i.rowMask = i.rowMatch := by
  cases i with
  | cls | ret => rfl
  | sys nnn | jp nnn | call nnn | ldI nnn | jpV0 nnn =>
    exact (formatNNN_and_F000 _ nnn).trans (by simp [formatNNN, Instr.rowMatch])
  | seImm x nn | sneImm x nn | ldImm x nn | addImm x nn | rnd x nn =>
    exact (formatXNN_and_F000 _ x nn).trans (by simp [formatNNN, Instr.rowMatch])
  | seReg x y n | sneReg x y n | drw x y n =>
    exact (formatXYN_and_F000 _ x y n).trans (by simp [formatNNN, Instr.rowMatch])
  | ldReg x y | or x y | and x y | xor x y | addReg x y | sub x y | shr x y | subn x y | shl x y =>
    exact (formatXYN_and_F00F _ x y _).trans (by simp [formatXYN, Instr.rowMatch])
  | skp x | sknp x | ldVxDt x | ldVxK x | ldDtVx x | ldStVx x | addI x | ldF x | ldB x | ldMemVx x | ldVxMem x =>
    exact (formatXNN_and_F0FF _ x _).trans (by simp [formatXNN, Instr.rowMatch])

/-- The instruction of the same row with its operands read from `w`. -/
def Instr.withFieldsOf (w : Word16) : Instr → Instr
  | .cls => .cls
  | .ret => .ret
  | .sys _ => .sys (nnnField w)
  | .jp _ => .jp (nnnField w)
  | .call _ => .call (nnnField w)
  | .seImm _ _ => .seImm (xField w) (nnField w)
  | .sneImm _ _ => .sneImm (xField w) (nnField w)
  | .seReg _ _ _ => .seReg (xField w) (yField w) (nField w)
  | .ldImm _ _ => .ldImm (xField w) (nnField w)
  | .addImm _ _ => .addImm (xField w) (nnField w)
  | .ldReg _ _ => .ldReg (xField w) (yField w)
  | .or _ _ => .or (xField w) (yField w)
  | .and _ _ => .and (xField w) (yField w)
  | .xor _ _ => .xor (xField w) (yField w)
  | .addReg _ _ => .addReg (xField w) (yField w)
  | .sub _ _ => .sub (xField w) (yField w)
  | .shr _ _ => .shr (xField w) (yField w)
  | .subn _ _ => .subn (xField w) (yField w)
  | .shl _ _ => .shl (xField w) (yField w)
  | .sneReg _ _ _ => .sneReg (xField w) (yField w) (nField w)
  | .ldI _ => .ldI (nnnField w)
  | .jpV0 _ => .jpV0 (nnnField w)
  | .rnd _ _ => .rnd (xField w) (nnField w)
  | .drw _ _ _ => .drw (xField w) (yField w) (nField w)
  | .skp _ => .skp (xField w)
  | .sknp _ => .sknp (xField w)
  | .ldVxDt _ => .ldVxDt (xField w)
  | .ldVxK _ => .ldVxK (xField w)
  | .ldDtVx _ => .ldDtVx (xField w)
  | .ldStVx _ => .ldStVx (xField w)
  | .addI _ => .addI (xField w)
  | .ldF _ => .ldF (xField w)
  | .ldB _ => .ldB (xField w)
  | .ldMemVx _ => .ldMemVx (xField w)
  | .ldVxMem _ => .ldVxMem (xField w)

section Row
variable {w : Word16} {i : Instr}

@[simp] theorem Instr.rowMask_withFieldsOf (w : Word16) (i : Instr) : (i.withFieldsOf w).rowMask = i.rowMask := by
  cases i <;> rfl

@[simp] theorem Instr.rowMatch_withFieldsOf (w : Word16) (i : Instr) : (i.withFieldsOf w).rowMatch = i.rowMatch := by
  cases i <;> rfl

/-- Every row fixes OP. -/
theorem opField_of_row (h : w &&& i.rowMask = i.rowMatch) : opField w = opField (encode i) := by
  have hm : opField i.rowMask = BitVec.allOnes 4 := by cases i <;> simp [Instr.rowMask, opField]
  have hf := congrArg opField (h.trans (encode_and_rowMask i).symm)
  rwa [opField_and, opField_and, hm, BitVec.and_allOnes, BitVec.and_allOnes] at hf

/-- A row of group 8 fixes N. -/
theorem nField_of_row (h : w &&& i.rowMask = i.rowMatch) (hm : i.rowMask = 0xF00F#16) :
    nField w = nField (encode i) := by
  have hf := congrArg nField (h.trans (encode_and_rowMask i).symm)
  rwa [hm, nField_and, nField_and, show nField 0xF00F#16 = BitVec.allOnes 4 by decide, BitVec.and_allOnes,
    BitVec.and_allOnes] at hf

/-- A row of group E or F fixes NN. -/
theorem nnField_of_row (h : w &&& i.rowMask = i.rowMatch) (hm : i.rowMask = 0xF0FF#16) :
    nnField w = nnField (encode i) := by
  have hf := congrArg nnField (h.trans (encode_and_rowMask i).symm)
  rwa [hm, nnField_and, nnField_and, show nnField 0xF0FF#16 = BitVec.allOnes 8 by decide, BitVec.and_allOnes,
    BitVec.and_allOnes] at hf

/-- A word that meets a row's mask and match is the word of an instruction of that row. -/
theorem encode_withFieldsOf (h : w &&& i.rowMask = i.rowMatch) : encode (i.withFieldsOf w) = w := by
  have hop := opField_of_row h
  cases i with
  | cls | ret => exact h.symm.trans BitVec.and_allOnes
  | sys nnn | jp nnn | call nnn | ldI nnn | jpV0 nnn => exact formatNNN_of_fields (hop.trans (opField_formatNNN _ _))
  | seImm x nn | sneImm x nn | ldImm x nn | addImm x nn | rnd x nn =>
    exact formatXNN_of_fields (hop.trans (opField_formatXNN _ _ _)) rfl
  | seReg x y n | sneReg x y n | drw x y n => exact formatXYN_of_fields (hop.trans (opField_formatXYN _ _ _ _)) rfl
  | ldReg x y | or x y | and x y | xor x y | addReg x y | sub x y | shr x y | subn x y | shl x y =>
    have hn := nField_of_row h rfl
    exact formatXYN_of_fields (hop.trans (opField_formatXYN _ _ _ _)) (hn.trans (nField_formatXYN _ _ _ _))
  | skp x | sknp x | ldVxDt x | ldVxK x | ldDtVx x | ldStVx x | addI x | ldF x | ldB x | ldMemVx x | ldVxMem x =>
    have hnn := nnField_of_row h rfl
    exact formatXNN_of_fields (hop.trans (opField_formatXNN _ _ _)) (hnn.trans (nnField_formatXNN _ _ _))

/-- Only SYS has operands that are not well-formed, and its row alone has match 0000. -/
theorem Instr.wellFormed_withFieldsOf (h : i.rowMatch ≠ 0x0000#16) : (i.withFieldsOf w).wellFormed = true := by
  cases i with
  | sys nnn => exact absurd rfl h
  | _ => rfl

/-- The words of group 0 that SYS does not stand for are those of CLS and RET (R74). -/
theorem wellFormed_sys_nnnField (hop : opField w = 0x0#4) (hcls : w ≠ 0x00E0#16) (hret : w ≠ 0x00EE#16) :
    (Instr.sys (nnnField w)).wellFormed = true := by
  have hw := formatNNN_of_fields hop
  simp only [Instr.wellFormed, Bool.and_eq_true, bne_iff_ne]
  constructor
  · intro h
    rw [h] at hw
    exact hcls hw.symm
  · intro h
    rw [h] at hw
    exact hret hw.symm

end Row

/-- Settles O6: a word lies in a row exactly when it is the word of an instruction of that row, and decoding gives that
instruction back where it is well-formed. -/
theorem opcodeMapSelectsRow : Obligations.OpcodeMapSelectsRow := by
  refine ⟨fun w i h => ?_, fun w i h hne => ⟨i.withFieldsOf w, ?_, by simp, by simp⟩,
    fun w h hcls hret => ⟨nnnField w, ?_⟩⟩
  · obtain ⟨rfl, -⟩ := encodeOfDecode w i h
    exact encode_and_rowMask i
  · have hd := decodeOfEncode _ (Instr.wellFormed_withFieldsOf (w := w) hne)
    rwa [encode_withFieldsOf h] at hd
  · have hrow : w &&& (Instr.sys 0x000#12).rowMask = (Instr.sys 0x000#12).rowMatch := h
    have hop := (opField_of_row hrow).trans (opField_formatNNN _ _)
    have hd := decodeOfEncode _ (wellFormed_sys_nnnField hop hcls hret)
    rwa [show encode (.sys (nnnField w)) = w from encode_withFieldsOf hrow] at hd

/-! ### Ignored fields (R78) -/

/-- Decoding a word written as a number that the encoding of `i` has. -/
theorem decodeWord_ofNat {i : Instr} {m : Nat} (hwf : i.wellFormed = true) (hm : (encode i).toNat = m) :
    decodeWord (BitVec.ofNat 16 m) = .ok i := by
  subst hm
  rw [BitVec.ofNat_toNat, BitVec.setWidth_eq]
  exact decodeOfEncode i hwf

/-- Settles O7: the four words are encodings, and the four meanings do not read the ignored field. -/
theorem ignoredFieldsHaveNoEffect : Obligations.IgnoredFieldsHaveNoEffect := by
  intro x y y' n n' s
  refine ⟨decodeWord_ofNat rfl ?_, decodeWord_ofNat rfl ?_, decodeWord_ofNat rfl ?_, decodeWord_ofNat rfl ?_,
    rfl, rfl, rfl, rfl⟩
  · simp [encode]
  · simp [encode]
  · simp [encode]; omega
  · simp [encode]; omega

/-- Settles O1: each word is evaluated by the decoder. -/
theorem sampleWordsDecode : Obligations.SampleWordsDecode := by
  unfold Obligations.SampleWordsDecode
  decide

end Sys2Proof

namespace Sys2Proof

/-! ### How many words are of each kind (R79, R81) -/

/-- Three counts by kind: executable, SYS, unrecognised. -/
def kindCounts (executable sys unrecognised : Nat) : WordKind → Nat
  | .executable => executable
  | .sys => sys
  | .unrecognised => unrecognised

/-- How many words with a given OP are of each kind (R74 to R81). -/
def groupCount (op : Nat) : WordKind → Nat :=
  match op with
  | 0x0 => kindCounts 2 4094 0
  | 0x8 => kindCounts 2304 0 1792
  | 0xE => kindCounts 32 0 4064
  | 0xF => kindCounts 144 0 3952
  | _ => kindCounts 4096 0 0

/-- Counting below `m * k` block by block. -/
theorem countP_range_mul (p : Nat → Bool) (m k : Nat) :
    (List.range (m * k)).countP p = ∑ a ∈ Finset.range m, (List.range k).countP fun b => p (a * k + b) := by
  induction m with
  | zero => simp
  | succ m ih =>
    rw [Nat.succ_mul, List.range_add, List.countP_append, ih, Finset.sum_range_succ, List.countP_map]
    rfl

/-- A test of the remainder counts the same in every block. -/
theorem countP_range_mul_mod (p : Nat → Bool) (m k : Nat) :
    (List.range (m * k)).countP (fun n => p (n % k)) = m * (List.range k).countP p := by
  have hblock : (List.range k).countP (fun b => p (b % k)) = (List.range k).countP p :=
    List.countP_congr fun b hb => by rw [Nat.mod_eq_of_lt (List.mem_range.mp hb)]
  simp [countP_range_mul, hblock]

/-- How many numbers below `k` a list of distinct ones holds, and how many it leaves out. -/
theorem countP_mem_range {l : List Nat} {k : Nat} (hl : l.Nodup) (hk : ∀ n ∈ l, n < k) :
    (List.range k).countP (fun n => decide (n ∈ l)) = l.length ∧
      (List.range k).countP (fun n => !decide (n ∈ l)) = k - l.length := by
  have hin : (List.range k).countP (fun n => decide (n ∈ l)) = l.length := by
    rw [List.countP_eq_length_filter]
    refine ((List.perm_ext_iff_of_nodup (List.nodup_range.filter _) hl).mpr fun n => ?_).length_eq
    simpa using hk n
  have hsum := List.length_eq_countP_add_countP (fun n => decide (n ∈ l)) (l := List.range k)
  simp only [List.length_range, hin, decide_not, decide_eq_true_eq] at hsum
  exact ⟨hin, by omega⟩

/-- Counting the numbers below `k` by kind, where a list tells the two kinds apart. -/
theorem countP_ite_mem {l : List Nat} {k : Nat} (hl : l.Nodup) (hk : ∀ n ∈ l, n < k) {A B : WordKind}
    (hAB : A ≠ B) (K : WordKind) :
    (List.range k).countP (fun n => (if n ∈ l then A else B) == K) =
      if A = K then l.length else if B = K then k - l.length else 0 := by
  obtain ⟨hin, hout⟩ := countP_mem_range hl hk
  split
  case isTrue hA =>
    subst hA
    refine (List.countP_congr fun n _ => ?_).trans hin
    by_cases hn : n ∈ l <;> simp [hn, hAB.symm]
  case isFalse hA =>
    split
    case isTrue hB =>
      subst hB
      refine (List.countP_congr fun n _ => ?_).trans hout
      by_cases hn : n ∈ l <;> simp [hn, hA]
    case isFalse hB =>
      refine List.countP_eq_zero.mpr fun n _ => ?_
      by_cases hn : n ∈ l <;> simp [hn, hA, hB]

/-- The same where the list is of remainders. -/
theorem countP_ite_mod_mem {l : List Nat} (m : Nat) {k : Nat} (hl : l.Nodup) (hk : ∀ n ∈ l, n < k)
    {A B : WordKind} (hAB : A ≠ B) (K : WordKind) :
    (List.range (m * k)).countP (fun n => (if n % k ∈ l then A else B) == K) =
      m * (if A = K then l.length else if B = K then k - l.length else 0) := by
  rw [← countP_ite_mem hl hk hAB]
  exact countP_range_mul_mod (fun n => (if n ∈ l then A else B) == K) m k

/-- How many words with a given OP are of a given kind. -/
theorem countP_groupKind (op : Nat) (K : WordKind) :
    (List.range 0x1000).countP (fun nnn => groupKind op nnn == K) = groupCount op K := by
  unfold groupKind groupCount
  split
  case h_1 =>
    refine (countP_ite_mem (l := fixedNNN) (by decide) (by decide) (by decide) K).trans ?_
    cases K <;> rfl
  case h_2 =>
    refine (countP_ite_mod_mem (l := unrecognisedN) 0x100 (by decide) (by decide) (by decide) K).trans ?_
    cases K <;> rfl
  case h_3 =>
    refine (countP_ite_mod_mem (l := groupENN) 0x10 (by decide) (by decide) (by decide) K).trans ?_
    cases K <;> rfl
  case h_4 =>
    refine (countP_ite_mod_mem (l := groupFNN) 0x10 (by decide) (by decide) (by decide) K).trans ?_
    cases K <;> rfl
  case h_5 =>
    cases K <;> simp [kindCounts]

/-- The kind of a word written as OP and NNN. -/
theorem wordKind_ofNat {op nnn : Nat} (hop : op < 0x10) (hnnn : nnn < 0x1000) :
    wordKind (BitVec.ofNat 16 (op * 0x1000 + nnn)) = groupKind op nnn := by
  have hdiv : (op * 0x1000 + nnn) % 2 ^ 16 / 0x1000 = op := by omega
  have hmod : (op * 0x1000 + nnn) % 2 ^ 16 % 0x1000 = nnn := by omega
  rw [wordKind, opField_toNat, nnnField_toNat, BitVec.toNat_ofNat, hdiv, hmod]

theorem countP_wordKind_block {op : Nat} (hop : op < 0x10) (K : WordKind) :
    (List.range 0x1000).countP (fun nnn => wordKind (BitVec.ofNat 16 (op * 0x1000 + nnn)) == K) = groupCount op K := by
  rw [← countP_groupKind]
  exact List.countP_congr fun nnn h => by rw [wordKind_ofNat hop (List.mem_range.mp h)]

/-- How many of the 65536 words are of a given kind. -/
theorem countP_wordKind (K : WordKind) :
    (List.range 0x10000).countP (fun n => wordKind (BitVec.ofNat 16 n) == K) = kindCounts 51634 4094 9808 K := by
  have hsum : ∑ op ∈ Finset.range 0x10, groupCount op K = kindCounts 51634 4094 9808 K := by cases K <;> rfl
  rw [← hsum]
  refine (countP_range_mul _ 0x10 0x1000).trans (Finset.sum_congr rfl fun op hop => ?_)
  exact countP_wordKind_block (Finset.mem_range.mp hop) K

/-- How many of the 65536 words have a given OP and are of a given kind. -/
theorem countP_op_and_wordKind {op : Nat} (hop : op < 0x10) (K : WordKind) :
    (List.range 0x10000).countP (fun n => n / 0x1000 == op && wordKind (BitVec.ofNat 16 n) == K) =
      groupCount op K := by
  have hblock : ∀ a ∈ Finset.range 0x10, (List.range 0x1000).countP (fun nnn =>
      (a * 0x1000 + nnn) / 0x1000 == op && wordKind (BitVec.ofNat 16 (a * 0x1000 + nnn)) == K) =
      if a = op then groupCount op K else 0 := by
    intro a ha
    have hdiv : ∀ nnn ∈ List.range 0x1000, (a * 0x1000 + nnn) / 0x1000 = a := fun nnn h => by
      have := List.mem_range.mp h
      omega
    split
    case isTrue h =>
      subst h
      rw [← countP_wordKind_block hop]
      exact List.countP_congr fun nnn h => by simp [hdiv nnn h]
    case isFalse h => exact List.countP_eq_zero.mpr fun nnn hn => by simp [hdiv nnn hn, h]
  refine (countP_range_mul _ 0x10 0x1000).trans ((Finset.sum_congr rfl hblock).trans ?_)
  rw [Finset.sum_ite_eq', if_pos (Finset.mem_range.mpr hop)]

/-- Settles O5: each answer of the decoder is of the kind that the word is. -/
theorem wordClassCounts : Obligations.WordClassCounts := by
  refine ⟨(List.countP_congr fun n _ => ?_).trans (countP_wordKind .executable),
    (List.countP_congr fun n _ => ?_).trans (countP_wordKind .sys),
    (List.countP_congr fun n _ => ?_).trans (countP_wordKind .unrecognised)⟩
  all_goals
    rcases decodeWord_cases (BitVec.ofNat 16 n) with ⟨i, hd, -, -, hk⟩ | ⟨hd, hk⟩
    · rw [hd, hk]
      cases i <;> rfl
    · rw [hd, hk]
      rfl

end Sys2Proof

namespace Sys2Proof

/-! ### The unrecognised words (R79) -/

/-- R79's list. -/
theorem wordKind_eq_unrecognised_iff (w : Word16) : wordKind w = .unrecognised ↔
    (w.toNat / 0x1000 = 0x8 ∧ w.toNat % 0x10 ∈ unrecognisedN) ∨
    (w.toNat / 0x1000 = 0xE ∧ w.toNat % 0x100 ∉ groupENN) ∨
    (w.toNat / 0x1000 = 0xF ∧ w.toNat % 0x100 ∉ groupFNN) := by
  have hN : w.toNat % 0x1000 % 0x10 = w.toNat % 0x10 := Nat.mod_mod_of_dvd _ (by decide)
  have hNN : w.toNat % 0x1000 % 0x100 = w.toNat % 0x100 := Nat.mod_mod_of_dvd _ (by decide)
  rw [wordKind, opField_toNat, nnnField_toNat, ← hN, ← hNN]
  generalize w.toNat / 0x1000 = op, w.toNat % 0x1000 = nnn
  unfold groupKind
  split
  case h_5 h8 hE hF =>
    refine iff_of_false (by decide) ?_
    rintro (⟨h, -⟩ | ⟨h, -⟩ | ⟨h, -⟩)
    exacts [h8 h, hE h, hF h]
  all_goals simp [ite_eq_iff]

theorem decodeWord_eq_error_iff (w : Word16) :
    decodeWord w = .error (.codeNotRecognised w) ↔ wordKind w = .unrecognised := by
  rcases decodeWord_cases w with ⟨i, hd, -, -, hk⟩ | ⟨hd, hk⟩
  · rw [hd, hk]
    cases i <;> simp [Instr.kind]
  · simp [hd, hk]

/-- The words that do not decode are those of the kind unrecognised. -/
theorem isNone_decodeWord (w : Word16) :
    (decodeWord w).toOption.isNone = (wordKind w == .unrecognised) := by
  rcases decodeWord_cases w with ⟨i, hd, -, -, hk⟩ | ⟨hd, hk⟩
  · rw [hd, hk]
    cases i <;> rfl
  · rw [hd, hk]
    rfl

end Sys2Proof

namespace Sys2Proof.Machine

variable {s t : State}

/-! ### What an execute step can raise (60_exceptions.md R224 to R229) -/

/-- Instruction `i`, begun in `s`, raises `f`, on the condition of the rule of `f`. -/
inductive Raises (s : State) : Instr → Failure → Prop where
  | sys (nnn : Addr12) : Raises s (.sys nnn) (.codeNotImplemented (addrOperand nnn))
  | ret (hs : s.stk = []) : Raises s .ret .stackUnderflow
  | call (nnn : Addr12) (hs : 16 ≤ s.stk.length) : Raises s (.call nnn) .stackOverflow
  | skp (x : Nib) (hx : 16 ≤ (s.reg x).toNat) : Raises s (.skp x) (.keyOutOfRange (s.reg x))
  | sknp (x : Nib) (hx : 16 ≤ (s.reg x).toNat) : Raises s (.sknp x) (.keyOutOfRange (s.reg x))
  | drwAddress (x y n : Nib) (hn : 0 < n.toNat) (hb : 4096 < s.base + n.toNat) :
      Raises s (.drw x y n) (.addressOutOfRange (max s.base 0x1000))
  | drwEdge (x y n : Nib) (hb : n.toNat = 0 ∨ s.base + n.toNat ≤ 4096)
      (hr : rejects s.config.drawEdge
        (spriteBits (s.reg x).toNat (s.reg y).toNat (s.loadBytes s.base n.toNat)) = true) :
      Raises s (.drw x y n) (.drawOutOfBounds (s.reg x) (s.reg y) n)
  | ldB (x : Nib) (hb : 4096 < s.base + 3) : Raises s (.ldB x) (.addressOutOfRange (max s.base 0x1000))
  | ldMemVx (x : Nib) (hb : 4096 < s.base + (x.toNat + 1)) :
      Raises s (.ldMemVx x) (.addressOutOfRange (max s.base 0x1000))
  | ldVxMem (x : Nib) (hb : 4096 < s.base + (x.toNat + 1)) :
      Raises s (.ldVxMem x) (.addressOutOfRange (max s.base 0x1000))

/-- `o` completes in some state, or takes from `s` a failure that `i` may raise. -/
def CompletesOrRaises (i : Instr) (s : State) (o : Outcome) : Prop :=
  (∃ u : State, o = u.complete) ∨ ∃ f, Raises s i f ∧ o = s.takeFailure f

theorem execRet_completesOrRaises (s : State) : CompletesOrRaises .ret s (execRet s) := by
  unfold execRet
  rcases List.eq_nil_or_concat' s.stk with hs | ⟨l, w, hs⟩
  · rw [State.pop_error hs]
    exact .inr ⟨_, .ret hs, rfl⟩
  · rw [State.pop_ok hs]
    exact .inl ⟨_, rfl⟩

theorem execCall_completesOrRaises (nnn : Addr12) (s : State) :
    CompletesOrRaises (.call nnn) s (execCall nnn s) := by
  unfold execCall
  rcases Nat.lt_or_ge s.stk.length 16 with hs | hs
  · rw [State.push_ok hs]
    exact .inl ⟨_, rfl⟩
  · rw [State.push_error hs]
    exact .inr ⟨_, .call nnn hs, rfl⟩

theorem execSkp_completesOrRaises (x : Nib) (s : State) : CompletesOrRaises (.skp x) s (execSkp x s) := by
  unfold execSkp
  rcases Nat.lt_or_ge (s.reg x).toNat 16 with hx | hx
  · rw [State.keyOperand_ok hx]
    exact .inl ⟨_, rfl⟩
  · rw [State.keyOperand_error hx]
    exact .inr ⟨_, .skp x hx, rfl⟩

theorem execSknp_completesOrRaises (x : Nib) (s : State) : CompletesOrRaises (.sknp x) s (execSknp x s) := by
  unfold execSknp
  rcases Nat.lt_or_ge (s.reg x).toNat 16 with hx | hx
  · rw [State.keyOperand_ok hx]
    exact .inl ⟨_, rfl⟩
  · rw [State.keyOperand_error hx]
    exact .inr ⟨_, .sknp x hx, rfl⟩

/-- The address check of `DXYN` precedes its edge check (R231). -/
theorem execDrw_completesOrRaises (x y n : Nib) (s : State) : CompletesOrRaises (.drw x y n) s (execDrw x y n s) := by
  unfold execDrw
  rcases s.readSpan_cases n.toNat with ⟨hr, hb⟩ | ⟨hr, hn, hb⟩
  · rw [hr]
    dsimp only
    split
    case isTrue hrej => exact .inr ⟨_, .drwEdge x y n hb hrej, rfl⟩
    case isFalse => exact .inl ⟨_, rfl⟩
  · rw [hr]
    exact .inr ⟨_, .drwAddress x y n hn hb, rfl⟩

theorem execLdB_completesOrRaises (x : Nib) (s : State) : CompletesOrRaises (.ldB x) s (execLdB x s) := by
  unfold execLdB
  rcases s.writeSpan_cases (decimalDigits (s.reg x)) with ⟨hw, -⟩ | ⟨hw, -, hb⟩
  · rw [hw]
    exact .inl ⟨_, rfl⟩
  · rw [hw]
    exact .inr ⟨_, .ldB x hb, rfl⟩

theorem execLdMemVx_completesOrRaises (x : Nib) (s : State) :
    CompletesOrRaises (.ldMemVx x) s (execLdMemVx x s) := by
  rcases execLdMemVx_cases x s with ⟨-, he⟩ | ⟨hb, he⟩
  · exact .inl ⟨_, he⟩
  · exact .inr ⟨_, .ldMemVx x (by omega), he⟩

theorem execLdVxMem_completesOrRaises (x : Nib) (s : State) :
    CompletesOrRaises (.ldVxMem x) s (execLdVxMem x s) := by
  unfold execLdVxMem
  rcases Nat.lt_or_ge 4096 (s.base + (x.toNat + 1)) with hb | hb
  · rw [checkSpan_error ⟨Nat.succ_pos _, hb⟩]
    exact .inr ⟨_, .ldVxMem x hb, rfl⟩
  · rw [checkSpan_ok (.inr hb)]
    exact .inl ⟨_, rfl⟩

theorem execLdVxK_completesOrRaises (x : Nib) (s : State) : CompletesOrRaises (.ldVxK x) s (execLdVxK x s) := by
  unfold execLdVxK
  cases selectKey s.config.keySelect s.k with
  | none => exact .inl ⟨_, rfl⟩
  | some c => exact .inl ⟨_, rfl⟩

/-- Every failure of an execute step is one that its instruction raises, on the rule's condition. -/
theorem exec_completesOrRaises (i : Instr) (s : State) : CompletesOrRaises i s (exec i s) := by
  cases i with
  | sys nnn => exact .inr ⟨_, .sys nnn, rfl⟩
  | ret => exact execRet_completesOrRaises s
  | call nnn => exact execCall_completesOrRaises nnn s
  | skp x => exact execSkp_completesOrRaises x s
  | sknp x => exact execSknp_completesOrRaises x s
  | drw x y n => exact execDrw_completesOrRaises x y n s
  | ldVxK x => exact execLdVxK_completesOrRaises x s
  | ldB x => exact execLdB_completesOrRaises x s
  | ldMemVx x => exact execLdMemVx_completesOrRaises x s
  | ldVxMem x => exact execLdVxMem_completesOrRaises x s
  | _ => exact .inl ⟨_, rfl⟩

/-- A cycle that fails failed in fetch or decode, or its instruction raised the failure. -/
theorem step_failed_cases {f : Failure} (h : step s = .next t) (hr : t.result = .failed f) :
    s.fetchInstr = .error f ∨ ∃ i, s.fetchInstr = .ok i ∧ Raises s i f := by
  rcases step_next_cases h with ⟨i, u, hf, he, rfl⟩ | ⟨g, hf, rfl⟩
  · right
    rcases exec_completesOrRaises i s with ⟨v, ho⟩ | ⟨g, hg, ho⟩
    · obtain rfl : v.setResult .ok = u := Host.Outcome.next.inj (ho.symm.trans he)
      cases hr
    · obtain rfl : s.setResult (.failed g) = u := Host.Outcome.next.inj (ho.symm.trans he)
      obtain rfl : g = f := CycleResult.failed.inj hr
      exact ⟨i, hf, hg⟩
  · obtain rfl : g = f := CycleResult.failed.inj hr
    exact .inl hf

/-- A failed fetch reports an address (R221). -/
theorem State.fetchWord_ne_codeNotRecognised (s : State) (w : Word16) :
    s.fetchWord ≠ .error (.codeNotRecognised w) := by
  rcases Nat.lt_or_ge 0xFFE s.pc.toNat with hp | hp
  · simp [State.fetchWord_error hp]
  · simp [State.fetchWord_ok hp]

theorem State.fetchInstr_of_unrecognised {w : Word16} (hw : s.fetchWord = .ok w)
    (hd : decodeWord w = .error (.codeNotRecognised w)) : s.fetchInstr = .error (.codeNotRecognised w) := by
  simp [State.fetchInstr, hw, hd, decodeFailure]

/-- Fetch and decode report a word as unrecognised only where it was fetched and does not decode (R223). -/
theorem State.unrecognised_of_fetchInstr {w : Word16} (h : s.fetchInstr = .error (.codeNotRecognised w)) :
    s.fetchWord = .ok w ∧ decodeWord w = .error (.codeNotRecognised w) := by
  rcases s.fetchInstr_cases with ⟨v, i, -, -, hf⟩ | ⟨v, e, hw, hd, hf⟩ | ⟨f, hw, hf⟩
  · cases hf.symm.trans h
  · rcases decodeWord_cases v with ⟨i, hi, -⟩ | ⟨he, -⟩
    · cases hi.symm.trans hd
    · obtain rfl : .codeNotRecognised v = e := Except.error.inj (he.symm.trans hd)
      cases hf.symm.trans h
      exact ⟨hw, hd⟩
  · obtain rfl : f = .codeNotRecognised w := Except.error.inj (hf.symm.trans h)
    exact absurd hw (s.fetchWord_ne_codeNotRecognised w)

/-- Settles O4: a word and its kind say what the decoder answers; a cycle reports `CodeNotRecognised` from its
decode step only, since no instruction raises it. -/
theorem unrecognisedWordsExactly : Obligations.UnrecognisedWordsExactly := by
  refine ⟨fun w => (decodeWord_eq_error_iff w).trans (wordKind_eq_unrecognised_iff w), fun w => ?_,
    fun s w hf hd => ?_, fun s t w h hr => ?_, ?_, ?_, ?_, ?_⟩
  · rcases decodeWord_cases w with ⟨i, hd, -⟩ | ⟨hd, -⟩
    · exact .inl ⟨i, hd⟩
    · exact .inr hd
  · exact ⟨_, step_of_failed (State.fetchInstr_of_unrecognised hf hd), rfl⟩
  · rcases step_failed_cases h hr with hf | ⟨i, -, hraise⟩
    · exact State.unrecognised_of_fetchInstr hf
    · cases hraise
  · simp only [isNone_decodeWord]
    exact countP_op_and_wordKind (by decide) .unrecognised
  · simp only [isNone_decodeWord]
    exact countP_op_and_wordKind (by decide) .unrecognised
  · simp only [isNone_decodeWord]
    exact countP_op_and_wordKind (by decide) .unrecognised
  · simp only [isNone_decodeWord]
    exact countP_wordKind .unrecognised

end Sys2Proof.Machine

namespace Sys2Proof.Machine

variable {s : State}

/-! ### Frames of the two simplest updates -/

/-- Recording a result changes nothing else (60_exceptions.md R222). -/
theorem State.keepsAll_setResult (s : State) (r : CycleResult) : KeepsAll s (s.setResult r) :=
  ⟨rfl, fun _ _ => rfl, rfl, rfl, ⟨rfl, rfl⟩, fun _ => rfl, fun _ _ => rfl, ⟨rfl, rfl, rfl, rfl, rfl⟩⟩

/-- A completion that writes only pc keeps everything but pc. -/
theorem State.keepsAllButPc_setPc (s : State) (w : Word16) (r : CycleResult) :
    KeepsAllButPc s ((s.setPc w).setResult r) :=
  (s.setPc w).keepsAll_setResult r |>.2

/-- The frame of CALL and RET: everything but pc, the stack and the result. -/
def KeepsAllButPcAndStk (s t : State) : Prop :=
  KeepsRegsBut [] s t ∧ t.i = s.i ∧ KeepsTimers s t ∧ KeepsMemory s t ∧ KeepsDisplay s t ∧ KeepsHostSide s t

/-- A completion that writes only the stack and pc keeps everything else. -/
theorem State.keepsAllButPcAndStk_setStk_setPc (s : State) (l : List Word16) (w : Word16) (r : CycleResult) :
    KeepsAllButPcAndStk s (((s.setStk l).setPc w).setResult r) := by
  obtain ⟨hregs, hi, -, hrest⟩ := (s.setStk l).keepsAllButPc_setPc w r
  exact ⟨hregs, hi, hrest⟩

/-! ### What SYS, RET and CALL answer (40_control_flow.md R101, R102, R104) -/

/-- The word of a SYS instruction is NNN itself, as a 16-bit number. -/
theorem addrOperand_eq_ofNat (nnn : Addr12) : addrOperand nnn = BitVec.ofNat 16 nnn.toNat :=
  (BitVec.ofNat_toNat 16 nnn).symm

theorem exec_sys (nnn : Addr12) (s : State) :
    exec (.sys nnn) s = .next (s.setResult (.failed (.codeNotImplemented (BitVec.ofNat 16 nnn.toNat)))) := by
  rw [← addrOperand_eq_ofNat]
  rfl

theorem exec_ret_of_append {l : List Word16} {w : Word16} (h : s.stk = l ++ [w]) :
    exec .ret s = .next (((s.setStk l).setPc w).setResult .ok) := by
  change execRet s = _
  rw [execRet, State.pop_ok h]
  rfl

theorem exec_ret_of_nil (h : s.stk = []) : exec .ret s = .next (s.setResult (.failed .stackUnderflow)) := by
  change execRet s = _
  rw [execRet, State.pop_error h]
  rfl

theorem exec_call_of_lt (nnn : Addr12) (h : s.stk.length < 16) :
    exec (.call nnn) s =
      .next (((s.setStk (s.stk ++ [s.pc + 2#16])).setPc (addrOperand nnn)).setResult .ok) := by
  change execCall nnn s = _
  rw [execCall, State.push_ok h]
  rfl

theorem exec_call_of_ge (nnn : Addr12) (h : 16 ≤ s.stk.length) :
    exec (.call nnn) s = .next (s.setResult (.failed .stackOverflow)) := by
  change execCall nnn s = _
  rw [execCall, State.push_error h]
  rfl

/-! ### The rules of 40_control_flow.md -/

/-- Settles O33: a word 0NNN outside R74's two is SYS's encoding, and SYS takes its failure. -/
theorem sysFailsNotImplemented : Obligations.SysFailsNotImplemented := by
  refine ⟨fun nnn hcls hret => decodeWord_ofNat ?_ ?_, fun nnn s => ⟨_, exec_sys nnn s, rfl, s.keepsAll_setResult _⟩⟩
  · simp [Instr.wellFormed, hcls, hret]
  · simp [encode]

/-- Settles O34: the stack ends in the popped entry or is empty. -/
theorem retPopsOrUnderflows : Obligations.RetPopsOrUnderflows :=
  ⟨decodeOfEncode .ret rfl,
    fun s l w h => ⟨_, exec_ret_of_append h, rfl, rfl, rfl, s.keepsAllButPcAndStk_setStk_setPc l w .ok⟩,
    fun s h => ⟨_, exec_ret_of_nil h, rfl, s.keepsAll_setResult _⟩⟩

/-- Settles O35: JP writes pc and nothing else. -/
theorem jpSetsPc : Obligations.JpSetsPc := fun nnn s =>
  ⟨decodeWord_ofNat rfl (by simp [encode]), _, rfl, rfl, addrOperand_toNat nnn, s.keepsAllButPc_setPc _ _⟩

/-- Settles O36: CALL pushes below depth 16 and overflows at it. -/
theorem callPushesOrOverflows : Obligations.CallPushesOrOverflows := by
  refine ⟨fun nnn => decodeWord_ofNat rfl (by simp [encode]), fun nnn s h => ?_, fun nnn s h => ?_⟩
  · exact ⟨_, exec_call_of_lt nnn h, rfl, ⟨_, rfl, BitVec.toNat_add s.pc 2#16⟩, addrOperand_toNat nnn,
      s.keepsAllButPcAndStk_setStk_setPc _ _ _⟩
  · exact ⟨_, exec_call_of_ge nnn h.ge, rfl, s.keepsAll_setResult _⟩

/-- Settles O37: the sum of NNN and V[0] fits in 16 bits, so pc is the sum itself. -/
theorem jpV0AddsV0 : Obligations.JpV0AddsV0 := fun nnn s =>
  ⟨decodeWord_ofNat rfl (by simp [encode]), _, rfl, rfl, addrOperand_add_wideByte_toNat nnn _,
    s.keepsAllButPc_setPc _ _⟩

end Sys2Proof.Machine

namespace Sys2Proof.Machine

variable {s : State}

/-! ### What a skip answers (41_skips.md R126) -/

/-- A skip on `c` completes with pc advanced by 4 or by 2, here `d`, and keeps everything else. -/
theorem State.complete_skipIf (s : State) {c : Bool} {d : Nat} (hd : (if c then 4 else 2) = d) :
    ∃ t, (s.skipIf c).complete = .next t ∧ t.result = .ok ∧ KeepsAllButPc s t ∧
      t.pc.toNat = (s.pc.toNat + d) % 65536 := by
  subst hd
  cases c with
  | true => exact ⟨_, rfl, rfl, s.keepsAllButPc_setPc _ _, BitVec.toNat_add s.pc 4#16⟩
  | false => exact ⟨_, rfl, rfl, s.keepsAllButPc_setPc _ _, BitVec.toNat_add s.pc 2#16⟩

theorem exec_seImm (x : Nib) (nn : Byte) (s : State) :
    exec (.seImm x nn) s = (s.skipIf (s.reg x == nn)).complete := rfl

theorem exec_sneImm (x : Nib) (nn : Byte) (s : State) :
    exec (.sneImm x nn) s = (s.skipIf (s.reg x != nn)).complete := rfl

theorem exec_seReg (x y n : Nib) (s : State) :
    exec (.seReg x y n) s = (s.skipIf (s.reg x == s.reg y)).complete := rfl

theorem exec_sneReg (x y n : Nib) (s : State) :
    exec (.sneReg x y n) s = (s.skipIf (s.reg x != s.reg y)).complete := rfl

/-- A code of at most 0xF in V[x] names its key cell. -/
theorem State.keyOperand_of_reg_eq {x c : Nib} (h : (s.reg x).toNat = c.toNat) :
    s.keyOperand x = .ok (Keys.pressed s.k c) := by
  rw [State.keyOperand_ok (h ▸ c.isLt)]
  simp only [h, Keys.pressed]

theorem exec_skp_of_reg_eq {x c : Nib} (h : (s.reg x).toNat = c.toNat) :
    exec (.skp x) s = (s.skipIf (Keys.pressed s.k c)).complete := by
  change execSkp x s = _
  rw [execSkp, State.keyOperand_of_reg_eq h]
  rfl

theorem exec_sknp_of_reg_eq {x c : Nib} (h : (s.reg x).toNat = c.toNat) :
    exec (.sknp x) s = (s.skipIf (!Keys.pressed s.k c)).complete := by
  change execSknp x s = _
  rw [execSknp, State.keyOperand_of_reg_eq h]
  rfl

theorem exec_skp_of_ge {x : Nib} (h : 16 ≤ (s.reg x).toNat) :
    exec (.skp x) s = .next (s.setResult (.failed (.keyOutOfRange (s.reg x)))) := by
  change execSkp x s = _
  rw [execSkp, State.keyOperand_error h]
  rfl

theorem exec_sknp_of_ge {x : Nib} (h : 16 ≤ (s.reg x).toNat) :
    exec (.sknp x) s = .next (s.setResult (.failed (.keyOutOfRange (s.reg x)))) := by
  change execSknp x s = _
  rw [execSknp, State.keyOperand_error h]
  rfl

/-! ### The rules of 41_skips.md -/

/-- Settles O38: both words are encodings, and both instructions are a skip on their comparison. -/
theorem skipsOnImmediate : Obligations.SkipsOnImmediate := by
  intro x nn s
  refine ⟨decodeWord_ofNat rfl (by simp [encode]), decodeWord_ofNat rfl (by simp [encode]), ?_, ?_⟩
  · rw [exec_seImm]
    exact s.complete_skipIf (by simp)
  · rw [exec_sneImm]
    exact s.complete_skipIf (by simp)

/-- Settles O39: both words are encodings for every N, and both instructions are a skip on their comparison. -/
theorem skipsOnRegister : Obligations.SkipsOnRegister := by
  intro x y n s
  refine ⟨decodeWord_ofNat rfl (by simp [encode]), decodeWord_ofNat rfl (by simp [encode]), ?_, ?_⟩
  · rw [exec_seReg]
    exact s.complete_skipIf (by simp)
  · rw [exec_sneReg]
    exact s.complete_skipIf (by simp)

/-- Settles O40: V[x] names a key cell, on which SKP and SKNP are skips, or both take the failure. -/
theorem skipsOnKey : Obligations.SkipsOnKey := by
  refine ⟨fun x => ⟨decodeWord_ofNat rfl ?_, decodeWord_ofNat rfl ?_⟩, fun x c s h => ⟨?_, ?_⟩, fun x s h => ⟨?_, ?_⟩⟩
  · simp [encode]; omega
  · simp [encode]; omega
  · rw [exec_skp_of_reg_eq h]
    exact s.complete_skipIf rfl
  · rw [exec_sknp_of_reg_eq h]
    exact s.complete_skipIf (by cases Keys.pressed s.k c <;> rfl)
  · exact ⟨_, exec_skp_of_ge h, rfl, s.keepsAll_setResult _⟩
  · exact ⟨_, exec_sknp_of_ge h, rfl, s.keepsAll_setResult _⟩

end Sys2Proof.Machine

namespace Sys2Proof.Machine

variable {s : State}

/-! ### The frame of an instruction that writes registers and advances (42_load_arith_logic.md) -/

/-- Only registers of `xs` are written, pc advances by 2, and only the result is recorded beside. -/
def AdvancesWritingRegs (xs : List Nib) (s t : State) : Prop :=
  KeepsRegsBut xs s t ∧ t.pc.toNat = (s.pc.toNat + 2) % 65536 ∧ KeepsAllButRegs s t

theorem KeepsRegsBut.refl (xs : List Nib) (s : State) : KeepsRegsBut xs s s := fun _ _ => rfl

/-- Writing a register that the frame leaves out keeps the frame. -/
theorem KeepsRegsBut.setReg {xs : List Nib} {t : State} (h : KeepsRegsBut xs s t) {x : Nib} (hx : x ∈ xs) (b : Byte) :
    KeepsRegsBut xs s (t.setReg x b) := fun r hr => by
  have hne : r ≠ x := fun e => hr (e ▸ hx)
  rw [State.reg_setReg, if_neg hne, h r hr]

theorem State.advancesWritingRegs_setReg (s : State) (x : Nib) (b : Byte) :
    AdvancesWritingRegs [x] s ((s.setReg x b).advance.setResult .ok) :=
  ⟨(KeepsRegsBut.refl [x] s).setReg (List.mem_singleton_self x) b, BitVec.toNat_add s.pc 2#16,
    (s.setReg x b).keepsAllButPc_setPc _ _ |>.2⟩

theorem State.advancesWritingRegs_setResultThenFlag (s : State) (x : Nib) (r flag : Byte) :
    AdvancesWritingRegs [x, vf] s ((s.setResultThenFlag x r flag).advance.setResult .ok) :=
  ⟨((KeepsRegsBut.refl [x, vf] s).setReg (by simp) r).setReg (by simp) flag, BitVec.toNat_add s.pc 2#16,
    (s.setResultThenFlag x r flag).keepsAllButPc_setPc _ _ |>.2⟩

theorem State.advancesWritingRegs_setFlagThenResult (s : State) (x : Nib) (flag r : Byte) :
    AdvancesWritingRegs [x, vf] s ((s.setFlagThenResult x flag r).advance.setResult .ok) :=
  ⟨((KeepsRegsBut.refl [x, vf] s).setReg (by simp) flag).setReg (by simp) r, BitVec.toNat_add s.pc 2#16,
    (s.setFlagThenResult x flag r).keepsAllButPc_setPc _ _ |>.2⟩

/-! ### The flags as numbers (10_state.md R21) -/

@[simp] theorem flagByte_toNat (c : Bool) : (flagByte c).toNat = c.toNat := by cases c <;> rfl

@[simp] theorem carryFlag_toNat (a b : Byte) : (carryFlag a b).toNat = if a.toNat + b.toNat > 255 then 1 else 0 := by
  simp [carryFlag, Bool.toNat, Bool.cond_decide]

@[simp] theorem greaterFlag_toNat (a b : Byte) : (greaterFlag a b).toNat = if a.toNat > b.toNat then 1 else 0 := by
  simp [greaterFlag, Bool.toNat, Bool.cond_decide]

@[simp] theorem lowBitFlag_toNat (a : Byte) : (lowBitFlag a).toNat = a.toNat % 2 := by
  rw [lowBitFlag, flagByte_toNat, BitVec.getLsbD, Nat.toNat_testBit]
  simp

@[simp] theorem highBitFlag_toNat (a : Byte) : (highBitFlag a).toNat = a.toNat / 128 := by
  have := a.isLt
  rw [highBitFlag, flagByte_toNat, BitVec.getLsbD, Nat.toNat_testBit]
  omega

/-! ### The input byte of a cycle (R151, 60_exceptions.md R241) -/

@[simp] theorem State.fetchInstr_setRand (s : State) (b : Byte) : (s.setRand b).fetchInstr = s.fetchInstr := rfl

@[simp] theorem State.base_setRand (s : State) (b : Byte) : (s.setRand b).base = s.base := rfl

@[simp] theorem State.keyOperand_setRand (s : State) (b : Byte) (x : Nib) :
    (s.setRand b).keyOperand x = s.keyOperand x := rfl

@[simp] theorem State.readSpan_setRand (s : State) (b : Byte) (n : Nat) :
    (s.setRand b).readSpan n = s.readSpan n := rfl

@[simp] theorem State.regsUpTo_setRand (s : State) (b : Byte) (x : Nib) :
    (s.setRand b).regsUpTo x = s.regsUpTo x := rfl

theorem State.skipIf_setRand (s : State) (b : Byte) (c : Bool) :
    (s.setRand b).skipIf c = (s.skipIf c).setRand b := by cases c <;> rfl

theorem State.storeBytes_setRand (s : State) (b : Byte) (base : Nat) (l : List Byte) :
    (s.setRand b).storeBytes base l = (s.storeBytes base l).setRand b := by
  induction l generalizing s base with
  | nil => rfl
  | cons w l ih => exact ih (s.putByte base w) (base + 1)

theorem State.writeSpan_setRand (s : State) (b : Byte) (l : List Byte) :
    (s.setRand b).writeSpan l = (s.writeSpan l).map (·.setRand b) := by
  unfold State.writeSpan
  rw [State.base_setRand, State.storeBytes_setRand]
  cases checkSpan s.base l.length <;> rfl

theorem State.setRegs_setRand (s : State) (b : Byte) (n : Nat) (f : Nat → Byte) :
    (s.setRand b).setRegs n f = (s.setRegs n f).setRand b := by
  induction n with
  | zero => rfl
  | succ n ih => rw [State.setRegs_succ, State.setRegs_succ, ih]; rfl

/-- A cycle that executes `f` ends in the same state whatever its input byte: the end of the cycle refills the byte. -/
def IgnoresRand (f : State → Outcome) : Prop :=
  ∀ (s : State) (b : Byte), endOutcome (f (s.setRand b)) = endOutcome (f s)

/-- A skip leaves the input byte to the end of the cycle, whatever its condition. -/
theorem endOutcome_skipIf_setRand (s : State) (b : Byte) (c : Bool) :
    endOutcome ((s.setRand b).skipIf c).complete = endOutcome (s.skipIf c).complete := by
  rw [State.skipIf_setRand]
  rfl

theorem execRet_ignoresRand : IgnoresRand execRet := by
  intro s b
  unfold execRet
  rcases List.eq_nil_or_concat' s.stk with hs | ⟨l, w, hs⟩
  · rw [State.pop_error hs, State.pop_error (s := s.setRand b) hs]
    rfl
  · rw [State.pop_ok hs, State.pop_ok (s := s.setRand b) hs]
    rfl

theorem execCall_ignoresRand (nnn : Addr12) : IgnoresRand (execCall nnn) := by
  intro s b
  unfold execCall
  rcases Nat.lt_or_ge s.stk.length 16 with hs | hs
  · rw [State.push_ok hs, State.push_ok (s := s.setRand b) hs]
    rfl
  · rw [State.push_error hs, State.push_error (s := s.setRand b) hs]
    rfl

theorem execSkp_ignoresRand (x : Nib) : IgnoresRand (execSkp x) := by
  intro s b
  unfold execSkp
  rw [State.keyOperand_setRand]
  cases s.keyOperand x with
  | error f => rfl
  | ok down => exact endOutcome_skipIf_setRand s b down

theorem execSknp_ignoresRand (x : Nib) : IgnoresRand (execSknp x) := by
  intro s b
  unfold execSknp
  rw [State.keyOperand_setRand]
  cases s.keyOperand x with
  | error f => rfl
  | ok down => exact endOutcome_skipIf_setRand s b (!down)

theorem execDrw_ignoresRand (x y n : Nib) : IgnoresRand (execDrw x y n) := by
  intro s b
  unfold execDrw
  rw [State.readSpan_setRand]
  cases s.readSpan n.toNat with
  | error f => rfl
  | ok rows =>
    cases hrej : rejects s.config.drawEdge (spriteBits (s.reg x).toNat (s.reg y).toNat rows) with
    | true =>
      simp only [State.reg_setRand, State.setRand_config, hrej, if_true]
      rfl
    | false =>
      simp only [State.reg_setRand, State.setRand_config, hrej, Bool.false_eq_true, if_false]
      rfl

theorem execLdVxK_ignoresRand (x : Nib) : IgnoresRand (execLdVxK x) := by
  intro s b
  unfold execLdVxK
  rw [State.setRand_config, State.setRand_k]
  cases selectKey s.config.keySelect s.k <;> rfl

theorem execLdB_ignoresRand (x : Nib) : IgnoresRand (execLdB x) := by
  intro s b
  unfold execLdB
  rw [State.reg_setRand, State.writeSpan_setRand]
  cases s.writeSpan (decimalDigits (s.reg x)) <;> rfl

theorem execLdMemVx_ignoresRand (x : Nib) : IgnoresRand (execLdMemVx x) := by
  intro s b
  unfold execLdMemVx
  rw [State.regsUpTo_setRand, State.writeSpan_setRand]
  cases s.writeSpan (s.regsUpTo x) <;> rfl

theorem execLdVxMem_ignoresRand (x : Nib) : IgnoresRand (execLdVxMem x) := by
  intro s b
  unfold execLdVxMem
  simp only [State.base_setRand, State.byteAt_setRand, State.setRegs_setRand]
  cases checkSpan s.base (x.toNat + 1) <;> rfl

/-- No instruction but RND reads the input byte. -/
theorem exec_ignoresRand {i : Instr} (hi : ∀ x nn, i ≠ .rnd x nn) : IgnoresRand (exec i) := by
  cases i with
  | rnd x nn => exact absurd rfl (hi x nn)
  | ret => exact execRet_ignoresRand
  | call nnn => exact execCall_ignoresRand nnn
  | seImm x nn => exact fun s b => endOutcome_skipIf_setRand s b _
  | sneImm x nn => exact fun s b => endOutcome_skipIf_setRand s b _
  | seReg x y n => exact fun s b => endOutcome_skipIf_setRand s b _
  | sneReg x y n => exact fun s b => endOutcome_skipIf_setRand s b _
  | skp x => exact execSkp_ignoresRand x
  | sknp x => exact execSknp_ignoresRand x
  | drw x y n => exact execDrw_ignoresRand x y n
  | ldVxK x => exact execLdVxK_ignoresRand x
  | ldB x => exact execLdB_ignoresRand x
  | ldMemVx x => exact execLdMemVx_ignoresRand x
  | ldVxMem x => exact execLdVxMem_ignoresRand x
  | _ => exact fun _ _ => rfl

/-- A cycle that does not execute RND is the step on the byte that the state already holds. -/
theorem State.cycle_eq_step (h : ∀ x nn, s.fetchInstr ≠ .ok (.rnd x nn)) (b : Byte) : s.cycle b = step s := by
  unfold State.cycle
  cases hf : s.fetchInstr with
  | error f =>
    rw [step_of_failed hf, step_of_failed ((s.fetchInstr_setRand b).trans hf)]
    rfl
  | ok i =>
    rw [step_of_fetched hf, step_of_fetched ((s.fetchInstr_setRand b).trans hf)]
    exact exec_ignoresRand (fun x nn hi => h x nn (hf.trans (congrArg Except.ok hi))) s b

/-! ### The rules of 42_load_arith_logic.md -/

/-- Settles O41: both words are encodings, and both instructions write V[x] alone. -/
theorem immediateLoadAndAdd : Obligations.ImmediateLoadAndAdd := by
  intro x nn s
  refine ⟨decodeWord_ofNat rfl (by simp [encode]), decodeWord_ofNat rfl (by simp [encode]), ?_, ?_⟩
  · exact ⟨_, rfl, rfl, by simp, s.advancesWritingRegs_setReg x nn⟩
  · exact ⟨_, rfl, rfl, by simp, s.advancesWritingRegs_setReg x _⟩

/-- Settles O42: the four words are encodings, and the four instructions write V[x] alone. -/
theorem copyAndLogic : Obligations.CopyAndLogic := by
  intro x y s
  refine ⟨decodeWord_ofNat rfl ?_, decodeWord_ofNat rfl ?_, decodeWord_ofNat rfl ?_, decodeWord_ofNat rfl ?_,
    ?_, ?_, ?_, ?_⟩
  · simp [encode]
  · simp [encode]; omega
  · simp [encode]; omega
  · simp [encode]; omega
  · exact ⟨_, rfl, rfl, by simp, s.advancesWritingRegs_setReg x (s.reg y)⟩
  · exact ⟨_, rfl, rfl, by simp, s.advancesWritingRegs_setReg x (s.reg x ||| s.reg y)⟩
  · exact ⟨_, rfl, rfl, by simp, s.advancesWritingRegs_setReg x (s.reg x &&& s.reg y)⟩
  · exact ⟨_, rfl, rfl, by simp, s.advancesWritingRegs_setReg x (s.reg x ^^^ s.reg y)⟩

/-- Settles O43: the carry is the later of the two writes. -/
theorem addRegSumsAndCarries : Obligations.AddRegSumsAndCarries := by
  intro x y s
  refine ⟨decodeWord_ofNat rfl (by simp [encode]; omega), _, rfl, rfl, fun hx => ?_, ?_,
    s.advancesWritingRegs_setResultThenFlag x _ _⟩
  · simp [vf, hx]
  · simp [vf]

/-- Settles O44: the difference is the later of the two writes. -/
theorem subtractionsFlagThenDifference : Obligations.SubtractionsFlagThenDifference := by
  intro x y s
  refine ⟨decodeWord_ofNat rfl (by simp [encode]; omega), decodeWord_ofNat rfl (by simp [encode]; omega),
    ⟨_, rfl, rfl, ?_, fun hx => ?_, s.advancesWritingRegs_setFlagThenResult x _ _⟩,
    ⟨_, rfl, rfl, ?_, fun hx => ?_, s.advancesWritingRegs_setFlagThenResult x _ _⟩⟩
  · simp
  · simp [vf, hx.symm]
  · simp
  · simp [vf, hx.symm]

/-- Settles O45: the shifted value is the later of the two writes. -/
theorem shiftsByOne : Obligations.ShiftsByOne := by
  intro x y s
  refine ⟨decodeWord_ofNat rfl (by simp [encode]; omega), decodeWord_ofNat rfl (by simp [encode]; omega),
    ⟨_, rfl, rfl, ?_, fun hx => ?_, s.advancesWritingRegs_setFlagThenResult x _ _⟩,
    ⟨_, rfl, rfl, ?_, fun hx => ?_, s.advancesWritingRegs_setFlagThenResult x _ _⟩⟩
  · simp
  · simp [vf, hx.symm]
  · simp
  · simp [vf, hx.symm]

/-- Settles O46: RND writes V[x] alone, and any other cycle is the step on the byte already held. -/
theorem rndMasksInput : Obligations.RndMasksInput := by
  refine ⟨fun x nn s => ⟨decodeWord_ofNat rfl (by simp [encode]), ?_⟩, fun s b c h => ?_⟩
  · exact ⟨_, rfl, rfl, by simp, s.advancesWritingRegs_setReg x (s.rand &&& nn)⟩
  · rw [State.cycle_eq_step h b, State.cycle_eq_step h c]

end Sys2Proof.Machine

namespace Sys2Proof.Machine

variable {s : State}

/-! ### The frames of the three kinds of instruction (43_index_memory.md R176) -/

/-- Only I is written, pc advances by 2, and only the result is recorded beside. -/
def AdvancesWritingI (s t : State) : Prop :=
  t.pc.toNat = (s.pc.toNat + 2) % 65536 ∧ KeepsRegsBut [] s t ∧ t.stk = s.stk ∧ KeepsTimers s t ∧
    KeepsMemory s t ∧ KeepsDisplay s t ∧ KeepsHostSide s t

theorem State.advancesWritingI_setI (s : State) (w : Word16) :
    AdvancesWritingI s ((s.setI w).advance.setResult .ok) := by
  obtain ⟨hregs, -, hrest⟩ := (s.setI w).keepsAllButPc_setPc (s.pc + 2#16) .ok
  exact ⟨BitVec.toNat_add s.pc 2#16, hregs, hrest⟩

/-- Only memory is written, pc advances by 2, and only the result is recorded beside. -/
def AdvancesStoring (s t : State) : Prop :=
  t.pc.toNat = (s.pc.toNat + 2) % 65536 ∧ KeepsRegsBut [] s t ∧ t.i = s.i ∧ t.stk = s.stk ∧ KeepsTimers s t ∧
    KeepsDisplay s t ∧ KeepsHostSide s t

theorem State.advancesStoring_storeBytes (s : State) (base : Nat) (l : List Byte) :
    AdvancesStoring s ((s.storeBytes base l).advance.setResult .ok) := by
  rw [State.storeBytes_eq]
  obtain ⟨hregs, hi, hstk, htimers, -, hrest⟩ :=
    (s.setMem (s.storeBytes base l).mem).keepsAllButPc_setPc (s.pc + 2#16) .ok
  exact ⟨BitVec.toNat_add s.pc 2#16, hregs, hi, hstk, htimers, hrest⟩

/-- A block of registers is written: pc advances by 2, and all but registers is kept. -/
theorem State.advance_setRegs_frame (s : State) (n : Nat) (f : Nat → Byte) :
    ((s.setRegs n f).advance.setResult .ok).pc.toNat = (s.pc.toNat + 2) % 65536 ∧
      KeepsAllButRegs s ((s.setRegs n f).advance.setResult .ok) := by
  rw [State.setRegs_eq]
  obtain ⟨-, hrest⟩ := State.keepsAllButPc_setPc { s with v := (s.setRegs n f).v } (s.pc + 2#16) .ok
  exact ⟨BitVec.toNat_add s.pc 2#16, hrest⟩

/-- A span of addresses that leaves memory: the failure names its lowest address above 0xFFF, and nothing changes
(20_memory.md R54). -/
theorem exists_failed_addressOutOfRange {o : Outcome}
    (h : o = s.takeFailure (.addressOutOfRange (max s.base 0x1000))) :
    ∃ t, o = .next t ∧
      t.result = .failed (.addressOutOfRange (if s.base < 0x1000 then 0x1000 else s.base)) ∧ KeepsAll s t := by
  have hmax : max s.base 0x1000 = if s.base < 0x1000 then 0x1000 else s.base := by
    split <;> omega
  rw [hmax] at h
  exact ⟨_, h, rfl, s.keepsAll_setResult _⟩

/-! ### Inside and outside a stored block (20_memory.md R52) -/

theorem State.byteAt_storeBytes_inside {base j : Nat} {l : List Byte} (h : j < l.length) :
    (s.storeBytes base l).byteAt (base + j) = l[j] := by
  rw [State.byteAt_storeBytes, if_pos (by omega), Nat.add_sub_cancel_left, List.getD_eq_getElem l 0#8 h]

theorem State.byteAt_storeBytes_outside {base a : Nat} {l : List Byte} (h : a < base ∨ base + l.length ≤ a) :
    (s.storeBytes base l).byteAt a = s.byteAt a := by
  rw [State.byteAt_storeBytes, if_neg (by omega)]

/-! ### The digits stored by FX33 (R173) -/

/-- The three bytes at `base` after a store of the digits of `b`, as numbers: each digit fits in its byte. -/
theorem State.byteAt_storeDigits_toNat (s : State) (base : Nat) (b : Byte) :
    ((s.storeBytes base (decimalDigits b)).byteAt base).toNat = b.toNat / 100 ∧
    ((s.storeBytes base (decimalDigits b)).byteAt (base + 1)).toNat = b.toNat / 10 % 10 ∧
    ((s.storeBytes base (decimalDigits b)).byteAt (base + 2)).toNat = b.toNat % 10 := by
  have hbyte (j : Nat) (hj : j < 3) : (s.storeBytes base (decimalDigits b)).byteAt (base + j) = (decimalDigits b)[j] :=
    State.byteAt_storeBytes_inside hj
  have hb := b.isLt
  refine ⟨?_, ?_, ?_⟩
  · exact (congrArg BitVec.toNat (hbyte 0 (by decide))).trans (Nat.mod_eq_of_lt (by omega))
  · exact (congrArg BitVec.toNat (hbyte 1 (by decide))).trans (Nat.mod_eq_of_lt (by omega))
  · exact (congrArg BitVec.toNat (hbyte 2 (by decide))).trans (Nat.mod_eq_of_lt (by omega))

/-! ### What FX33 and FX65 do (R173, R175) -/

/-- Everything `FX33` can do: it stores the three digits where the span lies in memory, and fails otherwise. -/
theorem execLdB_cases (x : Nib) (s : State) :
    (s.base + 2 ≤ 0xFFF ∧ execLdB x s = (s.storeBytes s.base (decimalDigits (s.reg x))).advance.complete) ∨
    (0xFFF < s.base + 2 ∧ execLdB x s = s.takeFailure (.addressOutOfRange (max s.base 0x1000))) := by
  unfold execLdB
  have hl := length_decimalDigits (s.reg x)
  rcases s.writeSpan_cases (decimalDigits (s.reg x)) with ⟨hw, hb⟩ | ⟨hw, -, hb⟩
  · rw [hw]
    exact .inl ⟨by omega, rfl⟩
  · rw [hw]
    exact .inr ⟨by omega, rfl⟩

/-- Everything `FX65` can do: it loads V[0] to V[X] where the span lies in memory, and fails otherwise. -/
theorem execLdVxMem_cases (x : Nib) (s : State) :
    (s.base + x.toNat ≤ 0xFFF ∧
      execLdVxMem x s = (s.setRegs (x.toNat + 1) fun j => s.byteAt (s.base + j)).advance.complete) ∨
    (0xFFF < s.base + x.toNat ∧
      execLdVxMem x s = s.takeFailure (.addressOutOfRange (max s.base 0x1000))) := by
  unfold execLdVxMem
  rcases Nat.lt_or_ge 0xFFF (s.base + x.toNat) with hb | hb
  · rw [checkSpan_error (by omega)]
    exact .inr ⟨hb, rfl⟩
  · rw [checkSpan_ok (by omega)]
    exact .inl ⟨hb, rfl⟩

/-- The registers after a load of V[0] to V[X]. -/
theorem State.reg_loadRegs (x r : Nib) (f : Nat → Byte) :
    (s.setRegs (x.toNat + 1) f).reg r = if r.toNat ≤ x.toNat then f r.toNat else s.reg r := by
  simp only [State.reg_setRegs (Nat.succ_le_of_lt x.isLt), Nat.lt_succ_iff]

/-! ### The rules of 43_index_memory.md -/

/-- Settles O48: FX33 stores the digits as a block of three bytes, or its span leaves memory. -/
theorem bcdStoresThreeDigits : Obligations.BcdStoresThreeDigits := by
  refine ⟨fun x => decodeWord_ofNat rfl (by simp [encode]; omega), fun x s hin => ?_, fun x s hout => ?_⟩
  · obtain ⟨-, he⟩ := (execLdB_cases x s).resolve_right fun ⟨hout, _⟩ => hin.not_gt hout
    obtain ⟨hhundreds, htens, hunits⟩ := s.byteAt_storeDigits_toNat s.base (s.reg x)
    exact ⟨_, he, rfl, hhundreds, htens, hunits, fun a ha => State.byteAt_storeBytes_outside ha,
      s.advancesStoring_storeBytes _ _⟩
  · obtain ⟨-, he⟩ := (execLdB_cases x s).resolve_left fun ⟨hin, _⟩ => hin.not_gt hout
    exact exists_failed_addressOutOfRange he

/-- Settles O49: FX55 stores the registers as one block of bytes, or its span leaves memory. -/
theorem storeRegistersUpToX : Obligations.StoreRegistersUpToX := by
  refine ⟨fun x => decodeWord_ofNat rfl (by simp [encode]; omega), fun x s hin => ?_, fun x s hout => ?_⟩
  · obtain ⟨-, he⟩ := (execLdMemVx_cases x s).resolve_right fun ⟨hout, _⟩ => hin.not_gt hout
    exact ⟨_, he, rfl, fun r hr => State.byteAt_storeRegs_inside hr,
      fun a ha => State.byteAt_storeRegs_outside ha, s.advancesStoring_storeBytes _ _⟩
  · obtain ⟨-, he⟩ := (execLdMemVx_cases x s).resolve_left fun ⟨hin, _⟩ => hin.not_gt hout
    exact exists_failed_addressOutOfRange he

/-- Settles O50: FX65 writes the bytes of its span as one block of registers, or its span leaves memory. -/
theorem loadRegistersUpToX : Obligations.LoadRegistersUpToX := by
  refine ⟨fun x => decodeWord_ofNat rfl (by simp [encode]; omega), fun x s hin => ?_, fun x s hout => ?_⟩
  · obtain ⟨-, he⟩ := (execLdVxMem_cases x s).resolve_right fun ⟨hout, _⟩ => hin.not_gt hout
    exact ⟨_, he, rfl, fun r => State.reg_loadRegs x r _, s.advance_setRegs_frame _ _⟩
  · obtain ⟨-, he⟩ := (execLdVxMem_cases x s).resolve_left fun ⟨hin, _⟩ => hin.not_gt hout
    exact exists_failed_addressOutOfRange he

/-- A store that completed had its whole span in memory. -/
theorem span_of_ldMemVx_ok {t : State} {x : Nib} (h : exec (.ldMemVx x) s = .next t) (hr : t.result = .ok) :
    s.base + x.toNat ≤ 0xFFF := by
  by_contra hout
  obtain ⟨-, -, hfails⟩ := storeRegistersUpToX
  obtain ⟨t', ht', hfailed, -⟩ := hfails x s (by omega)
  obtain rfl := Host.Outcome.next.inj (h.symm.trans ht')
  cases hr.symm.trans hfailed

/-- Settles O51: the store put V[r] at I + r (O49), and the load reads it from there (O50). -/
theorem storeThenLoadRestores : Obligations.StoreThenLoadRestores := by
  intro x s t u v hst hok hi hbytes hld
  obtain ⟨-, hstores, -⟩ := storeRegistersUpToX
  obtain ⟨-, hloads, -⟩ := loadRegistersUpToX
  have hspan := span_of_ldMemVx_ok hst hok
  obtain ⟨t', ht', -, hstored, -, -, -, hti, -⟩ := hstores x s hspan
  obtain rfl := Host.Outcome.next.inj (hst.symm.trans ht')
  have hbase : u.base = s.base := congrArg BitVec.toNat (hi.trans hti)
  obtain ⟨v', hv', hvok, hloaded, -⟩ := hloads x u (by rwa [hbase])
  obtain rfl := Host.Outcome.next.inj (hld.symm.trans hv')
  refine ⟨hvok, fun r hr => ?_⟩
  calc v.reg r = u.byteAt (u.base + r.toNat) := by rw [hloaded, if_pos hr]
    _ = t.byteAt (s.base + r.toNat) := by rw [hbase, hbytes _ (by omega) (by omega)]
    _ = s.reg r := hstored r hr

/-- Settles O47: each of the three sets I and advances; NNN and V[X] * 5 fit in 16 bits. -/
theorem indexWriters : Obligations.IndexWriters := by
  refine ⟨fun nnn s => ⟨decodeWord_ofNat rfl (by simp [encode]), ?_⟩,
    fun x s => ⟨decodeWord_ofNat rfl (by simp [encode]; omega), ?_⟩,
    fun x s => ⟨decodeWord_ofNat rfl (by simp [encode]; omega), ?_⟩⟩
  · exact ⟨_, rfl, rfl, addrOperand_toNat nnn, s.advancesWritingI_setI _⟩
  · exact ⟨_, rfl, rfl, by simp, s.advancesWritingI_setI _⟩
  · have hfits := (s.reg x).isLt
    exact ⟨_, rfl, rfl, by simp; omega, s.advancesWritingI_setI _⟩

end Sys2Proof.Machine

namespace Sys2Proof.Machine

variable {s t u : State} {i : Instr} {x y n : Nib} {px : Fin 64} {py : Fin 32}

/-! ### The frame of the two display instructions (44_display.md) -/

/-- Everything but general registers, the display, pc and the result. -/
def KeepsAllButRegsAndDisplay (s t : State) : Prop :=
  t.i = s.i ∧ t.stk = s.stk ∧ KeepsTimers s t ∧ KeepsMemory s t ∧ KeepsHostSide s t

/-- A completion that writes the display, registers and pc keeps everything else. -/
theorem State.keepsAllButRegsAndDisplay_of_setDisplay {e : Display} (h : KeepsAllButRegs (s.setDisplay e) t) :
    KeepsAllButRegsAndDisplay s t := by
  obtain ⟨hi, hstk, htimers, hmem, -, hhost⟩ := h
  exact ⟨hi, hstk, htimers, hmem, hhost⟩

/-! ### CLS (R190) -/

@[simp] theorem State.pixel_setDisplay_blank (s : State) (px : Fin 64) (py : Fin 32) :
    (s.setDisplay Display.blank).pixel px py = false := by
  simp [State.pixel, Display.blank]

/-- Settles O53: CLS writes the display and pc. -/
theorem clsClearsEveryPixel : Obligations.ClsClearsEveryPixel := by
  refine ⟨decodeOfEncode .cls rfl, fun s => ?_⟩
  obtain ⟨hregs, hrest⟩ := (s.setDisplay Display.blank).keepsAllButPc_setPc (s.pc + 2#16) .ok
  exact ⟨_, rfl, rfl, s.pixel_setDisplay_blank, BitVec.toNat_add s.pc 2#16, hregs,
    State.keepsAllButRegsAndDisplay_of_setDisplay hrest⟩

/-! ### The pixels over every cycle (R192, 10_state.md R32) -/

/-- A pixel stays, or the instruction is DRW, or it is CLS and the pixel is 0 after it. -/
theorem Completes.pixel_cases (h : Completes s i u) (px : Fin 64) (py : Fin 32) :
    u.pixel px py = s.pixel px py ∨ (∃ x y n, i = .drw x y n) ∨ (i = .cls ∧ u.pixel px py = false) := by
  cases h with
  | cls => exact .inr (.inr ⟨rfl, s.pixel_setDisplay_blank px py⟩)
  | drw x y n => exact .inr (.inl ⟨x, y, n, rfl⟩)
  | _ => exact .inl (by simp)

/-- Settles O27: a failure changes no pixel, and CLS and DRW are the two completing instructions that do. -/
theorem onlyClsAndDrwChangeDisplay : Obligations.OnlyClsAndDrwChangeDisplay := by
  intro s t px py h hne
  obtain ⟨u, r, rfl, hu⟩ := step_failed_or_completed h
  simp only [State.pixel_endCycle, State.pixel_setResult] at hne ⊢
  rcases hu with ⟨rfl, -⟩ | ⟨-, i, hf, hc⟩
  · exact absurd rfl hne
  · rcases hc.pixel_cases px py with hu | ⟨x, y, n, rfl⟩ | ⟨rfl, hu⟩
    · exact absurd hu hne
    · exact .inl ⟨x, y, n, hf⟩
    · exact .inr ⟨hf, hu⟩

/-! ### The sprite that DRW reads, pixel by pixel (R191) -/

@[simp] theorem State.length_loadBytes (s : State) (base count : Nat) : (s.loadBytes base count).length = count := by
  simp [State.loadBytes]

theorem State.getD_loadBytes {base count j : Nat} (h : j < count) :
    (s.loadBytes base count).getD j 0#8 = s.byteAt (base + j) := by
  simp [State.loadBytes, h]

/-- The 1 bits of the sprite at I, of height n and drawn at (V[x], V[y]), as unreduced columns and rows. -/
def State.sprite (s : State) (x y n : Nib) : List (Nat × Nat) :=
  spriteBits (s.reg x).toNat (s.reg y).toNat (s.loadBytes s.base n.toNat)

/-- The pixels that the sprite's bits land on are those it covers. -/
theorem mem_landed_sprite :
    (px, py) ∈ landed s.config.drawEdge (s.sprite x y n) ↔ SpriteCovers s x y n px py := by
  simp only [State.sprite, mem_landed_spriteBits, State.length_loadBytes, SpriteCovers]
  refine exists_congr fun r => exists_congr fun c => and_congr_right fun hr => and_congr_right fun _ => ?_
  rw [State.getD_loadBytes hr]
  rfl

/-- The edge check refuses the sprite exactly when the policy is `reject` and a bit lies outside the grid. -/
theorem rejects_sprite :
    rejects s.config.drawEdge (s.sprite x y n) = true ↔ s.config.drawEdge = .reject ∧ SpriteLeavesGrid s x y n := by
  simp only [State.sprite, rejects_iff, State.length_loadBytes, SpriteLeavesGrid]
  refine and_congr_right fun _ => exists_congr fun r => exists_congr fun c => and_congr_right fun hr =>
    and_congr_right fun _ => ?_
  rw [State.getD_loadBytes hr]
  rfl

/-- The display and the hit bit after the sprite is drawn. -/
def State.drawn (s : State) (x y n : Nib) : Display × Bool := drawBits s.config.drawEdge s.d (s.sprite x y n)

/-- A sprite has at most 15 rows. -/
theorem State.length_spriteRows_le (s : State) (n : Nib) : (s.loadBytes s.base n.toNat).length ≤ 15 := by
  rw [State.length_loadBytes]
  exact Nat.le_of_lt_succ n.isLt

/-- Each pixel is exclusive-ored with whether the sprite lands on it. -/
theorem State.pixel_drawn (s : State) (x y n : Nib) (px : Fin 64) (py : Fin 32) :
    (s.setDisplay (s.drawn x y n).1).pixel px py =
      (s.pixel px py ^^ decide ((px, py) ∈ landed s.config.drawEdge (s.sprite x y n))) := by
  obtain ⟨hpixel, -⟩ := drawBits_spec s.config.drawEdge s.d (s.reg x).toNat (s.reg y).toNat (s.length_spriteRows_le n)
  exact hpixel px py

theorem State.pixel_drawn_of_covers (h : SpriteCovers s x y n px py) :
    (s.setDisplay (s.drawn x y n).1).pixel px py = !s.pixel px py := by
  rw [State.pixel_drawn, decide_eq_true (mem_landed_sprite.mpr h), Bool.xor_true]

theorem State.pixel_drawn_of_not_covers (h : ¬ SpriteCovers s x y n px py) :
    (s.setDisplay (s.drawn x y n).1).pixel px py = s.pixel px py := by
  rw [State.pixel_drawn, decide_eq_false (mt mem_landed_sprite.mp h), Bool.xor_false]

/-- The hit bit: some covered pixel was set. -/
theorem State.hit_drawn_iff :
    (s.drawn x y n).2 = true ↔ ∃ px py, SpriteCovers s x y n px py ∧ s.pixel px py = true := by
  obtain ⟨-, hhit⟩ := drawBits_spec s.config.drawEdge s.d (s.reg x).toNat (s.reg y).toNat (s.length_spriteRows_le n)
  have hany : (s.drawn x y n).2 = (landed s.config.drawEdge (s.sprite x y n)).any fun p => s.pixel p.1 p.2 := hhit
  simp only [hany, List.any_eq_true, Prod.exists, mem_landed_sprite]

/-! ### What DRW can do (R191, 60_exceptions.md R231) -/

/-- The state in which DRW completes, before the result is recorded. -/
def State.afterDraw (s : State) (x y n : Nib) : State :=
  ((s.setDisplay (s.drawn x y n).1).setReg vf (flagByte (s.drawn x y n).2)).advance

/-- Everything `DXYN` can do: a sprite byte above 0xFFF fails it, then a bit outside the grid under `reject`, and
otherwise it draws. -/
theorem execDrw_cases (x y n : Nib) (s : State) :
    ((n ≠ 0#4 ∧ 0xFFF < s.base + n.toNat - 1) ∧
      execDrw x y n s = s.takeFailure (.addressOutOfRange (max s.base 0x1000))) ∨
    ((n = 0#4 ∨ s.base + n.toNat - 1 ≤ 0xFFF) ∧
      ((s.config.drawEdge = .reject ∧ SpriteLeavesGrid s x y n) ∧
          execDrw x y n s = s.takeFailure (.drawOutOfBounds (s.reg x) (s.reg y) n) ∨
        ¬ (s.config.drawEdge = .reject ∧ SpriteLeavesGrid s x y n) ∧
          execDrw x y n s = (s.afterDraw x y n).complete)) := by
  have hzero : n = 0#4 ↔ n.toNat = 0 := BitVec.toNat_inj.symm
  unfold execDrw
  simp only [ne_eq, hzero]
  rcases s.readSpan_cases n.toNat with ⟨hread, hspan⟩ | ⟨hread, hn, hspan⟩
  · rw [hread]
    refine .inr ⟨by omega, ?_⟩
    by_cases hrej : rejects s.config.drawEdge (s.sprite x y n) = true
    · exact .inl ⟨rejects_sprite.mp hrej, congrArg s.finish (if_pos hrej)⟩
    · exact .inr ⟨mt rejects_sprite.mpr hrej, congrArg s.finish (if_neg hrej)⟩
  · rw [hread]
    exact .inl ⟨by omega, rfl⟩

/-- The frame of a completed draw: VF, the display and pc are all that it writes. -/
theorem State.afterDraw_frame (s : State) (x y n : Nib) :
    KeepsRegsBut [vf] s ((s.afterDraw x y n).setResult .ok) ∧
      ((s.afterDraw x y n).setResult .ok).pc.toNat = (s.pc.toNat + 2) % 65536 ∧
      KeepsAllButRegsAndDisplay s ((s.afterDraw x y n).setResult .ok) := by
  obtain ⟨hregs, hpc, hrest⟩ :=
    (s.setDisplay (s.drawn x y n).1).advancesWritingRegs_setReg vf (flagByte (s.drawn x y n).2)
  exact ⟨hregs, hpc, State.keepsAllButRegsAndDisplay_of_setDisplay hrest⟩

@[simp] theorem State.reg_vf_afterDraw : (s.afterDraw x y n).reg vf = flagByte (s.drawn x y n).2 := by
  simp [State.afterDraw]

/-- A flag is 1 exactly when its condition holds. -/
theorem flagByte_eq_one_iff {c : Bool} : flagByte c = 1#8 ↔ c = true := by
  cases c with
  | false => decide
  | true => decide

/-- Settles O54: the word is DRW's encoding, and the three outcomes exclude one another. -/
theorem drwExclusiveOrsSprite : Obligations.DrwExclusiveOrsSprite := by
  refine ⟨fun x y n => decodeWord_ofNat rfl (by simp [encode]), fun x y n s hspan hedge => ?_,
    fun x y n s hn hspan => ?_, fun x y n s hspan hrej hleaves => ?_⟩
  · have hdraws : exec (.drw x y n) s = (s.afterDraw x y n).complete := by
      rcases execDrw_cases x y n s with ⟨⟨hn, hout⟩, -⟩ | ⟨-, ⟨⟨hrej, hleaves⟩, -⟩ | ⟨-, he⟩⟩
      · exact absurd hspan (not_or.mpr ⟨hn, hout.not_ge⟩)
      · exact absurd hleaves (hedge hrej)
      · exact he
    have hvf : ((s.afterDraw x y n).setResult .ok).reg vf = flagByte (s.drawn x y n).2 := State.reg_vf_afterDraw
    refine ⟨_, hdraws, rfl, fun px py => State.pixel_drawn_of_covers, fun px py => State.pixel_drawn_of_not_covers,
      hvf ▸ flagByte_eq_zero_or_one _, ?_, s.afterDraw_frame x y n⟩
    exact (hvf ▸ flagByte_eq_one_iff).trans State.hit_drawn_iff
  · rcases execDrw_cases x y n s with ⟨-, he⟩ | ⟨hin, -⟩
    · exact exists_failed_addressOutOfRange he
    · exact absurd hin (not_or.mpr ⟨hn, hspan.not_ge⟩)
  · rcases execDrw_cases x y n s with ⟨⟨hn, hout⟩, -⟩ | ⟨-, ⟨-, he⟩ | ⟨hdraws, -⟩⟩
    · exact absurd hspan (not_or.mpr ⟨hn, hout.not_ge⟩)
    · exact ⟨_, he, rfl, s.keepsAll_setResult _⟩
    · exact absurd ⟨hrej, hleaves⟩ hdraws

/-! ### The same draw twice (R192 (a)) -/

/-- A draw that completed had its sprite in memory and, under `reject`, its bits in the grid. -/
theorem fits_of_drw_ok (h : exec (.drw x y n) s = .next t) (hr : t.result = .ok) :
    (n = 0#4 ∨ s.base + n.toNat - 1 ≤ 0xFFF) ∧ (s.config.drawEdge = .reject → ¬ SpriteLeavesGrid s x y n) := by
  have hnofail (f : Failure) : execDrw x y n s ≠ s.takeFailure f := fun he => by
    obtain rfl := Host.Outcome.next.inj (h.symm.trans he)
    cases hr
  rcases execDrw_cases x y n s with ⟨-, he⟩ | ⟨hspan, ⟨-, he⟩ | ⟨hdraws, -⟩⟩
  · exact absurd he (hnofail _)
  · exact absurd he (hnofail _)
  · exact ⟨hspan, not_and.mp hdraws⟩

/-- Both states draw the same sprite at the same place: the two operands, I, memory and the edge policy agree. -/
def SameSprite (x y : Nib) (s t : State) : Prop :=
  t.reg x = s.reg x ∧ t.reg y = s.reg y ∧ t.i = s.i ∧ KeepsMemory s t ∧ t.config = s.config

theorem SameSprite.spriteCovers_iff (h : SameSprite x y s t) :
    SpriteCovers t x y n px py ↔ SpriteCovers s x y n px py := by
  obtain ⟨hx, hy, hi, hmem, hconfig⟩ := h
  unfold SpriteCovers SpriteBit
  simp only [hx, hy, hi, hconfig, hmem _]

theorem SameSprite.spriteLeavesGrid_iff (h : SameSprite x y s t) :
    SpriteLeavesGrid t x y n ↔ SpriteLeavesGrid s x y n := by
  obtain ⟨hx, hy, hi, hmem, -⟩ := h
  unfold SpriteLeavesGrid SpriteBit
  simp only [hx, hy, hi, hmem _]

/-- Settles O55: the second draw reads the same sprite, so by O54 it inverts the same pixels again. -/
theorem drwTwiceRestoresDisplay : Obligations.DrwTwiceRestoresDisplay := by
  intro x y n s t hx hy hst hok
  obtain ⟨-, hdraws, -, -⟩ := drwExclusiveOrsSprite
  obtain ⟨hspan, hedge⟩ := fits_of_drw_ok hst hok
  obtain ⟨t', ht', -, htinv, htkeep, -, -, hregs, -, hi, -, -, hmem, -, -, -, -, hconfig⟩ := hdraws x y n s hspan hedge
  obtain rfl := Host.Outcome.next.inj (hst.symm.trans ht')
  have hsame : SameSprite x y s t := ⟨hregs x (by simpa using hx), hregs y (by simpa using hy), hi, hmem, hconfig⟩
  have hbase : t.base = s.base := congrArg BitVec.toNat hi
  obtain ⟨u, hu, huok, huinv, hukeep, -, huvf, -⟩ := hdraws x y n t (by rwa [hbase])
    (by rwa [hconfig, hsame.spriteLeavesGrid_iff])
  simp only [hsame.spriteCovers_iff] at huinv hukeep huvf
  refine ⟨u, hu, huok, fun px py => ?_, huvf.trans (exists_congr fun px => exists_congr fun py => ?_)⟩
  · by_cases hc : SpriteCovers s x y n px py
    · rw [huinv px py hc, htinv px py hc, Bool.not_not]
    · rw [hukeep px py hc, htkeep px py hc]
  · by_cases hc : SpriteCovers s x y n px py
    · simp [hc, htinv px py hc]
    · simp [hc, htkeep px py hc]

end Sys2Proof.Machine

namespace Sys2Proof.Machine

variable {s : State}

/-! ### The key wait (45_timers_keys.md R201) -/

/-- The default KEY_SELECT answers no code above a pressed one. -/
theorem Keys.lowest_le {k : Keys} {c e : Nib} (he : Keys.lowest k = some e) (hc : Keys.pressed k c = true) :
    e.toNat ≤ c.toNat := by
  rcases Keys.lowest_cases k with ⟨e', he', -, hbelow⟩ | ⟨hnone, -⟩
  · obtain rfl := Option.some.inj (he.symm.trans he')
    exact Nat.le_of_not_lt fun hlt => Bool.false_ne_true ((hbelow c hlt).symm.trans hc)
  · cases he.symm.trans hnone

/-- FX0A stores the code that KEY_SELECT answers, a pressed one, or no key is down and it completes as it began. -/
theorem execLdVxK_cases (x : Nib) (s : State) :
    (∃ e, selectKey s.config.keySelect s.k = some e ∧ Keys.pressed s.k e = true ∧
      execLdVxK x s = (s.setReg x (e.setWidth 8)).advance.complete) ∨
    ((∀ c, Keys.pressed s.k c = false) ∧ execLdVxK x s = s.complete) := by
  unfold execLdVxK
  rcases selectKey_cases s.config.keySelect s.k with ⟨e, he, hdown⟩ | ⟨he, hup⟩
  · rw [he]
    exact .inl ⟨e, rfl, hdown, rfl⟩
  · rw [he]
    exact .inr ⟨hup, rfl⟩

/-- Settles O58: FX0A waits exactly when no key is down, and otherwise KEY_SELECT's code is the value of V[X]. -/
theorem keyWaitStoresPressedCode : Obligations.KeyWaitStoresPressedCode := by
  refine ⟨fun x => decodeWord_ofNat rfl (by simp [encode]; omega), fun x s hup => ?_, fun x c s hc => ?_⟩
  · rcases execLdVxK_cases x s with ⟨e, -, hdown, -⟩ | ⟨-, hwaits⟩
    · exact absurd ((hup e).symm.trans hdown) Bool.false_ne_true
    · exact ⟨_, hwaits, rfl, s.keepsAll_setResult _⟩
  · rcases execLdVxK_cases x s with ⟨e, he, hdown, hstores⟩ | ⟨hup, -⟩
    · have hlowest : s.config.keySelect = .lowest → e.toNat ≤ c.toNat := fun hsel =>
        Keys.lowest_le (by rwa [hsel] at he) hc
      exact ⟨_, e, hstores, rfl, hdown, by simp; omega, hlowest, s.advancesWritingRegs_setReg x _⟩
    · exact absurd ((hup c).symm.trans hc) Bool.false_ne_true

/-! ### The timer moves (45_timers_keys.md R200, R202, R203) -/

/-- Only timers are written, pc advances by 2, and only the result is recorded beside. -/
def AdvancesWritingTimers (s t : State) : Prop :=
  KeepsRegsBut [] s t ∧ t.pc.toNat = (s.pc.toNat + 2) % 65536 ∧ t.i = s.i ∧ t.stk = s.stk ∧ KeepsMemory s t ∧
    KeepsDisplay s t ∧ KeepsHostSide s t

theorem State.advancesWritingTimers_setDt (s : State) (b : Byte) :
    AdvancesWritingTimers s ((s.setDt b).advance.setResult .ok) := by
  obtain ⟨hregs, hi, hstk, -, hrest⟩ := (s.setDt b).keepsAllButPc_setPc (s.pc + 2#16) .ok
  exact ⟨hregs, BitVec.toNat_add s.pc 2#16, hi, hstk, hrest⟩

theorem State.advancesWritingTimers_setSt (s : State) (b : Byte) :
    AdvancesWritingTimers s ((s.setSt b).advance.setResult .ok) := by
  obtain ⟨hregs, hi, hstk, -, hrest⟩ := (s.setSt b).keepsAllButPc_setPc (s.pc + 2#16) .ok
  exact ⟨hregs, BitVec.toNat_add s.pc 2#16, hi, hstk, hrest⟩

/-- Settles O56: the three words are encodings; FX07 writes V[X] alone, FX15 and FX18 one timer alone. -/
theorem timerMoves : Obligations.TimerMoves := by
  intro x s
  refine ⟨decodeWord_ofNat rfl ?_, decodeWord_ofNat rfl ?_, decodeWord_ofNat rfl ?_, ?_, ?_, ?_⟩
  · simp [encode]; omega
  · simp [encode]; omega
  · simp [encode]; omega
  · exact ⟨_, rfl, rfl, by simp, s.advancesWritingRegs_setReg x s.dt⟩
  · exact ⟨_, rfl, rfl, rfl, rfl, s.advancesWritingTimers_setDt (s.reg x)⟩
  · exact ⟨_, rfl, rfl, rfl, rfl, s.advancesWritingTimers_setSt (s.reg x)⟩

end Sys2Proof.Machine

namespace Sys2Proof.Machine

variable {s t : State}

/-! ### What fetch and decode answer (60_exceptions.md R221, R223) -/

/-- The fetched word as a number: the two bytes big-endian. -/
theorem wordOfBytes_eq_ofNat (hi lo : Byte) : wordOfBytes hi lo = BitVec.ofNat 16 (hi.toNat * 0x100 + lo.toNat) := by
  have := hi.isLt
  have := lo.isLt
  apply BitVec.eq_of_toNat_eq
  rw [wordOfBytes_toNat, BitVec.toNat_ofNat]
  omega

theorem State.fetchInstr_of_decodes {w : Word16} {i : Instr} (hw : s.fetchWord = .ok w) (hd : decodeWord w = .ok i) :
    s.fetchInstr = .ok i := by
  simp [State.fetchInstr, hw, hd]

theorem State.fetchInstr_of_fetchWord_error {f : Failure} (hw : s.fetchWord = .error f) : s.fetchInstr = .error f := by
  simp [State.fetchInstr, hw]

/-- An instruction that was fetched has its encoding at pc. -/
theorem State.fetchWord_of_fetchInstr {i : Instr} (h : s.fetchInstr = .ok i) : s.fetchWord = .ok (encode i) := by
  rcases s.fetchInstr_cases with ⟨w, j, hw, hd, hf⟩ | ⟨w, e, -, -, hf⟩ | ⟨f, -, hf⟩
  · obtain rfl : j = i := Except.ok.inj (hf.symm.trans h)
    obtain ⟨henc, -⟩ := encodeOfDecode w j hd
    rw [hw, henc]
  · cases hf.symm.trans h
  · cases hf.symm.trans h

/-- Everything a failure of fetch or decode can be: an unrecognised word, or an address beyond memory. -/
theorem State.fetchInstr_error_cases {f : Failure} (h : s.fetchInstr = .error f) :
    (∃ w, f = .codeNotRecognised w ∧ s.fetchWord = .ok w ∧ ∀ i, decodeWord w ≠ .ok i) ∨
    (f = .addressOutOfRange (max s.pc.toNat 0x1000) ∧ 0xFFE < s.pc.toNat) := by
  rcases Nat.lt_or_ge 0xFFE s.pc.toNat with hp | hp
  · have hf := State.fetchInstr_of_fetchWord_error (State.fetchWord_error hp)
    exact .inr ⟨Except.error.inj (h.symm.trans hf), hp⟩
  · have hw := State.fetchWord_ok hp
    rcases decodeWord_cases (wordOfBytes (s.byteAt s.pc.toNat) (s.byteAt (s.pc.toNat + 1))) with ⟨i, hd, -⟩ | ⟨hd, -⟩
    · cases h.symm.trans (State.fetchInstr_of_decodes hw hd)
    · have hf := State.fetchInstr_of_unrecognised hw hd
      exact .inl ⟨_, Except.error.inj (h.symm.trans hf), hw, by simp [hd]⟩

/-! ### Every cycle answers (R241) -/

/-- Every execute step answers a next state: it completes or takes a failure. -/
theorem exec_answers (i : Instr) (s : State) : ∃ u, exec i s = .next u := by
  rcases exec_completesOrRaises i s with ⟨u, ho⟩ | ⟨f, -, ho⟩
  · exact ⟨_, ho⟩
  · exact ⟨_, ho⟩

theorem step_answers (s : State) : ∃ t, step s = .next t := by
  cases hf : s.fetchInstr with
  | error f => exact ⟨_, step_of_failed hf⟩
  | ok i =>
    obtain ⟨u, hu⟩ := exec_answers i s
    exact ⟨u.endCycle, by rw [step_of_fetched hf, hu, endOutcome_next]⟩

/-- Settles O13: every step answers, so every cycle does, which is the step on the host's byte. -/
theorem everyCycleAnswers : Obligations.EveryCycleAnswers := fun s b => step_answers (s.setRand b)

/-- Settles O8: the word at pc decodes, so the step is the end of the cycle applied to exec, which answers. -/
theorem stepRunsDecodedInstruction : Obligations.StepRunsDecodedInstruction := by
  intro s i hp hd
  rw [← wordOfBytes_eq_ofNat] at hd
  have hstep := step_of_fetched (State.fetchInstr_of_decodes (State.fetchWord_ok hp) hd)
  obtain ⟨u, hu⟩ := exec_answers i s
  exact ⟨hstep, u, hu, by rw [hstep, hu, endOutcome_next]⟩

/-- Settles O9: the fetch composes its two bytes, or names the lowest address above 0xFFF. -/
theorem fetchReadsTwoBytesOrFails : Obligations.FetchReadsTwoBytesOrFails := by
  refine ⟨fun s hp => ⟨_, State.fetchWord_ok hp, ?_⟩, fun s hp => ?_⟩
  · rw [wordOfBytes_toNat]
  · have hlowest : max s.pc.toNat 0x1000 = if s.pc.toNat = 0x0FFF then 0x1000 else s.pc.toNat := by
      split <;> omega
    have hw := State.fetchWord_error hp
    rw [hlowest] at hw
    exact ⟨hw, _, step_of_failed (State.fetchInstr_of_fetchWord_error hw), rfl⟩

/-! ### The end of a cycle (R236, R237) -/

/-- The timer step from `u` to `t`: each timer counted down to a floor of 0, tone is whether ST was 1. -/
def CountsDown (u t : State) : Prop :=
  t.dt.toNat = u.dt.toNat - 1 ∧ t.st.toNat = u.st.toNat - 1 ∧ (t.tone = true ↔ u.st = 1#8)

theorem State.countsDown_endCycle (u : State) : CountsDown u u.endCycle :=
  ⟨countDown_toNat u.dt, countDown_toNat u.st, by simp⟩

/-- Registers, memory and display, which no part of the end of a cycle writes. -/
theorem State.endCycle_frame (u : State) :
    KeepsRegsBut [] u u.endCycle ∧ KeepsMemory u u.endCycle ∧ KeepsDisplay u u.endCycle :=
  ⟨fun r _ => u.reg_endCycle r, u.byteAt_endCycle, u.pixel_endCycle⟩

/-- Every cycle ends with `State.endCycle`, on what the instruction left or on the failure of fetch or decode. -/
theorem step_eq_endCycle (h : step s = .next t) :
    ∃ u, ((∃ i, s.fetchInstr = .ok i ∧ exec i s = .next u) ∨
      (∃ f, s.fetchInstr = .error f ∧ s.takeFailure f = .next u)) ∧ t = u.endCycle := by
  rcases step_next_cases h with ⟨i, u, hf, hu, ht⟩ | ⟨f, hf, ht⟩
  · exact ⟨u, .inl ⟨i, hf, hu⟩, ht⟩
  · exact ⟨_, .inr ⟨f, hf, s.takeFailure_eq f⟩, ht⟩

/-- Settles O10: whichever way a cycle goes, its last act is `State.endCycle`, which writes the timers, tone and the
next input. -/
theorem timerStepEndsEveryCycle : Obligations.TimerStepEndsEveryCycle := by
  intro s t h
  obtain ⟨u, hu, rfl⟩ := step_eq_endCycle h
  obtain ⟨hdt, hst, htone⟩ := u.countsDown_endCycle
  obtain ⟨hregs, hmem, hdisplay⟩ := u.endCycle_frame
  exact ⟨u, hu, hdt, hst, htone, hregs, rfl, rfl, rfl, hmem, hdisplay, rfl, rfl, rfl⟩

/-! ### Failed cycles (R222, R234) -/

/-- A failed cycle records the failure in the state it began in, and ends. -/
theorem step_failed_eq {f : Failure} (h : step s = .next t) (hr : t.result = .failed f) :
    t = (s.setResult (.failed f)).endCycle := by
  obtain ⟨u, r, rfl, ⟨rfl, -⟩ | ⟨rfl, -⟩⟩ := step_failed_or_completed h
  · obtain rfl : r = .failed f := hr
    rfl
  · cases hr

/-- Settles O11: what a failed cycle leaves is `step_failed_eq`; recording the result writes nothing else, and the end
of the cycle counts down the timers it finds. -/
theorem failedCycleIsPrecise : Obligations.FailedCycleIsPrecise := by
  refine ⟨fun s f hf => ⟨_, step_of_failed hf, rfl⟩, fun s t f h hr => ?_⟩
  obtain rfl := step_failed_eq h hr
  obtain ⟨hdt, hst, htone⟩ := (s.setResult (.failed f)).countsDown_endCycle
  obtain ⟨hregs, hmem, hdisplay⟩ := (s.setResult (.failed f)).endCycle_frame
  exact ⟨hregs, rfl, rfl, rfl, hmem, hdisplay, rfl, rfl, hdt, hst, htone⟩

/-- `Raises` is exact: where its condition holds, the execute step takes that failure. -/
theorem Raises.exec_eq {i : Instr} {f : Failure} (h : Raises s i f) : exec i s = s.takeFailure f := by
  cases h with
  | sys nnn => rfl
  | ret hs => exact exec_ret_of_nil hs
  | call nnn hs => exact exec_call_of_ge nnn hs
  | skp x hx => exact exec_skp_of_ge hx
  | sknp x hx => exact exec_sknp_of_ge hx
  | drwAddress x y n hn hb =>
    obtain ⟨hread, -⟩ := (s.readSpan_cases n.toNat).resolve_left fun ⟨_, hin⟩ => by omega
    simp only [exec, execDrw, hread, State.finish]
  | drwEdge x y n hb hr =>
    obtain ⟨hread, -⟩ := (s.readSpan_cases n.toNat).resolve_right fun ⟨_, hn, hout⟩ => by omega
    simp only [exec, execDrw, hread, hr, if_true, State.finish]
  | ldB x hb => exact ((execLdB_cases x s).resolve_left fun ⟨hin, _⟩ => by omega).2
  | ldMemVx x hb => exact ((execLdMemVx_cases x s).resolve_left fun ⟨hin, _⟩ => by omega).2
  | ldVxMem x hb => exact ((execLdVxMem_cases x s).resolve_left fun ⟨hin, _⟩ => by omega).2

/-- The condition of a failure reads registers, I, the stack, memory and the configuration only. -/
theorem Raises.of_same {i : Instr} {f : Failure} (h : Raises s i f) (hregs : KeepsRegsBut [] s t) (hi : t.i = s.i)
    (hstk : t.stk = s.stk) (hmem : KeepsMemory s t) (hconfig : t.config = s.config) : Raises t i f := by
  have hreg (x : Nib) : t.reg x = s.reg x := hregs x List.not_mem_nil
  have hbase : t.base = s.base := congrArg BitVec.toNat hi
  have hload (n : Nat) : t.loadBytes t.base n = s.loadBytes s.base n := by
    simp only [State.loadBytes, hbase, hmem _]
  cases h with
  | sys nnn => exact .sys nnn
  | ret hs => exact .ret (hstk.trans hs)
  | call nnn hs => exact .call nnn (hstk ▸ hs)
  | skp x hx => exact hreg x ▸ .skp x (hreg x ▸ hx)
  | sknp x hx => exact hreg x ▸ .sknp x (hreg x ▸ hx)
  | drwAddress x y n hn hb => exact hbase ▸ .drwAddress x y n hn (hbase ▸ hb)
  | drwEdge x y n hb hr =>
    rw [← hbase] at hb
    rw [← hconfig, ← hload, ← hreg x, ← hreg y] at hr
    rw [← hreg x, ← hreg y]
    exact .drwEdge x y n hb hr
  | ldB x hb => exact hbase ▸ .ldB x (hbase ▸ hb)
  | ldMemVx x hb => exact hbase ▸ .ldMemVx x (hbase ▸ hb)
  | ldVxMem x hb => exact hbase ▸ .ldVxMem x (hbase ▸ hb)

/-- Fetch and decode read pc and memory only. -/
theorem State.fetchInstr_of_same (hpc : t.pc = s.pc) (hmem : KeepsMemory s t) : t.fetchInstr = s.fetchInstr := by
  unfold State.fetchInstr State.fetchWord State.memRead
  rw [hpc, hmem, hmem]

/-- Settles O15: a failed cycle leaves all that fetch, decode and the condition of its failure read (O11), so the
next cycle fetches the same, and raises the same where an instruction raised the failure. -/
theorem failureRepeats : Obligations.FailureRepeats := by
  intro s t f h hr
  obtain ⟨hfetch, hprecise⟩ := failedCycleIsPrecise
  obtain ⟨hregs, hpc, hi, hstk, hmem, -, -, hconfig, -⟩ := hprecise s t f h hr
  have hsame : t.fetchInstr = s.fetchInstr := State.fetchInstr_of_same hpc hmem
  rcases step_failed_cases h hr with hf | ⟨i, hf, hraise⟩
  · exact hfetch t f (hsame.trans hf)
  · have hexec := (hraise.of_same hregs hi hstk hmem hconfig).exec_eq
    exact ⟨(t.setResult (.failed f)).endCycle, by rw [step_of_fetched (hsame.trans hf), hexec]; rfl, rfl⟩

/-! ### The causes of failures (R223 to R229) -/

/-- The word of SYS is its NNN zero-extended (R101). -/
theorem encode_sys (nnn : Addr12) : encode (.sys nnn) = addrOperand nnn := by
  simp [encode, formatNNN, addrOperand]

/-- Settles O12: a failure of fetch or decode is one of two, and `Raises` holds the condition of every other. -/
theorem eachFailureHasItsCause : Obligations.EachFailureHasItsCause := by
  intro s t f h hr
  rcases step_failed_cases h hr with hf | ⟨i, hf, hraise⟩
  · rcases State.fetchInstr_error_cases hf with ⟨w, rfl, hw, hd⟩ | ⟨rfl, hp⟩
    · exact ⟨hw, hd⟩
    · exact ⟨by omega, .inl hp⟩
  · cases hraise with
    | sys nnn => exact ⟨encode_sys nnn ▸ State.fetchWord_of_fetchInstr hf, nnn, hf⟩
    | ret hs => exact ⟨hf, hs⟩
    | call nnn hs => exact ⟨⟨nnn, hf⟩, hs⟩
    | skp x hx => exact ⟨hx, x, .inl hf, rfl⟩
    | sknp x hx => exact ⟨hx, x, .inr hf, rfl⟩
    | drwAddress x y n hn hb => exact ⟨by omega, .inr ⟨x, y, n, .inl ⟨hf, by omega, by omega⟩⟩⟩
    | drwEdge x y n _ hrejects =>
      obtain ⟨hpolicy, hleaves⟩ := rejects_sprite.mp hrejects
      exact ⟨hpolicy, x, y, hf, rfl, rfl, hleaves⟩
    | ldB x hb => exact ⟨by omega, .inr ⟨x, 0, 0, .inr (.inl ⟨hf, by omega, by omega⟩)⟩⟩
    | ldMemVx x hb => exact ⟨by omega, .inr ⟨x, 0, 0, .inr (.inr ⟨.inl hf, by omega, by omega⟩)⟩⟩
    | ldVxMem x hb => exact ⟨by omega, .inr ⟨x, 0, 0, .inr (.inr ⟨.inr hf, by omega, by omega⟩)⟩⟩

/-! ### The host's byte (R241) -/

/-- Of two writes to one register the second stands. -/
theorem State.setReg_setReg (s : State) (x : Nib) (a b : Byte) : (s.setReg x a).setReg x b = s.setReg x b := by
  simp [State.setReg]

/-- A cycle that executes RND on byte `b` uses it under the mask NN only; its end refills the byte. -/
theorem State.cycle_of_rnd {x : Nib} {nn : Byte} (hf : s.fetchInstr = .ok (.rnd x nn)) (b : Byte) :
    s.cycle b = .next ((s.setReg x (b &&& nn)).advance.setResult .ok).endCycle :=
  step_of_fetched ((s.fetchInstr_setRand b).trans hf)

/-- Settles O14: no instruction but RND reads the byte, and RND reads it under its mask. -/
theorem randReadOnlyByRnd : Obligations.RandReadOnlyByRnd := by
  refine fun s b c => ⟨fun h => ?_, fun x nn hf => ?_⟩
  · rw [State.cycle_eq_step h b, State.cycle_eq_step h c]
  · refine ⟨_, c &&& nn, State.cycle_of_rnd hf b, ?_, fun j hj => by simp [hj]⟩
    rw [State.cycle_of_rnd hf c, ← s.setReg_setReg x (b &&& nn) (c &&& nn)]
    rfl

/-! ### The host's operations (R242 to R244, R230) -/

/-- An image of at most PROG_MAX bytes is stored from 0x200 upward. -/
theorem State.load_of_le {bytes : List Byte} (h : bytes.length ≤ 3584) (s : State) :
    s.load bytes = (.ok, s.storeBytes 0x200 bytes) := if_neg (Nat.not_lt.mpr h)

/-- A longer image is refused whole. -/
theorem State.load_of_gt {bytes : List Byte} (h : 3584 < bytes.length) (s : State) :
    s.load bytes = (.notEnoughMemory bytes.length 3584, s) := if_pos h

/-- Settles O23: `load` is one block store from 0x200, or nothing. -/
theorem loadWritesExactlyTheImage : Obligations.LoadWritesExactlyTheImage := by
  refine ⟨fun s bytes h => ⟨_, State.load_of_le h s, ?_⟩, fun s bytes h => State.load_of_gt h s⟩
  refine ⟨fun j hj => State.byteAt_storeBytes_inside hj, fun a ha => State.byteAt_storeBytes_outside ha,
    fun r _ => State.reg_storeBytes _ _ r, ?_⟩
  simp [KeepsTimers, KeepsDisplay, KeepsHostSide]

theorem State.inv_load (bytes : List Byte) (hs : s.Inv) : (s.load bytes).2.Inv := by
  rcases Nat.lt_or_ge 3584 bytes.length with h | h
  · rwa [State.load_of_gt h]
  · obtain ⟨hmem, hstk⟩ := hs
    rw [State.load_of_le h]
    exact ⟨by simpa using State.storeBytes_wf (by omega) hmem, by simpa using hstk⟩

theorem State.pcInReach_load (bytes : List Byte) (hs : s.PcInReach) : (s.load bytes).2.PcInReach := by
  rcases Nat.lt_or_ge 3584 bytes.length with h | h
  · rwa [State.load_of_gt h]
  · rw [State.load_of_le h]
    simpa [State.PcInReach] using hs

/-- Settles O21: reset lists no memory and no stack entry and puts pc at 0x200, load stores within memory, and
setKey writes nothing that the invariants read. -/
theorem hostActionsKeepInvariants : Obligations.HostActionsKeepInvariants := by
  intro s a hinv hreach
  cases a with
  | reset =>
    have hpc : (0x0200#16).toNat ≤ 0x10FE := by decide
    exact ⟨⟨Memory.nil_wf, Nat.zero_le 16⟩, hpc, fun _ hw => absurd hw List.not_mem_nil⟩
  | load bytes => exact ⟨State.inv_load bytes hinv, State.pcInReach_load bytes hreach⟩
  | setKey c b => exact ⟨hinv, hreach⟩

/-- A key cell read after a key write. -/
theorem Keys.pressed_setKey (s : State) (c e : Nib) (b : Bool) :
    Keys.pressed (s.setKey c b).k e = if e = c then b else Keys.pressed s.k e := by
  have heq : c.toNat = e.toNat ↔ e = c := BitVec.toNat_inj.trans eq_comm
  simp only [State.setKey, State.setKeys_k, Keys.pressed, Vector.getElem_set, heq]

/-- Settles O24: one key cell is written, and no other field. -/
theorem setKeyWritesOneCell : Obligations.SetKeyWritesOneCell := fun s c b =>
  ⟨fun e => Keys.pressed_setKey s c e b, rfl⟩

end Sys2Proof.Machine

namespace Sys2Proof.Machine

variable {s s' : State}

/-! ### One cycle of an instruction that answers (60_exceptions.md R220) -/

theorem step_of_exec {i : Instr} {u : State} (hf : s.fetchInstr = .ok i) (hu : exec i s = .next u) :
    step s = .next u.endCycle := by
  rw [step_of_fetched hf, hu, endOutcome_next]

/-! ### The jump to its own address (70_reset_and_hazards.md R276 (b)) -/

/-- A jump to the address it stands at writes to pc what pc holds. -/
theorem exec_jp_self {nnn : Addr12} (h : s.pc.toNat = nnn.toNat) : exec (.jp nnn) s = .next (s.setResult .ok) := by
  have hpc : addrOperand nnn = s.pc := BitVec.eq_of_toNat_eq ((addrOperand_toNat nnn).trans h.symm)
  change (s.setPc (addrOperand nnn)).complete = _
  rw [hpc]
  rfl

/-- Settles O16: the jump leaves the state as it is, so what the cycle changes is what the end of a cycle writes; the
next fetch reads pc and memory only. -/
theorem selfJumpIsFixedPoint : Obligations.SelfJumpIsFixedPoint := by
  intro s nnn hf hpc
  obtain ⟨hdt, hst, -⟩ := (s.setResult .ok).countsDown_endCycle
  obtain ⟨hregs, hmem, hdisplay⟩ := (s.setResult .ok).endCycle_frame
  have hfetch : (s.setResult .ok).endCycle.fetchInstr = s.fetchInstr := State.fetchInstr_of_same rfl hmem
  exact ⟨_, step_of_exec hf (exec_jp_self hpc), rfl, rfl, hregs, rfl, rfl, hmem, hdisplay, rfl, rfl, hfetch.symm,
    hdt, hst⟩

/-! ### Reset as a function of the configuration (R260, R261, 60_exceptions.md R242) -/

theorem KeepsAll.refl (s : State) : KeepsAll s s := s.keepsAll_setResult s.result

/-- Blocks of one configuration are reset to one state, but for the free input, which goes on. -/
theorem State.hostReset_eq_of_config (h : s.config = s'.config) :
    s.hostReset = { s'.hostReset with rand := s.rand, draws := s.draws } := by
  simp only [State.hostReset, h]

/-- A block with the default parameters is reset to the state of construction, but for the free input. -/
theorem State.hostReset_eq_reset (h : s.config = State.reset.config) :
    s.hostReset = { State.reset with rand := s.rand, draws := s.draws } :=
  State.hostReset_eq_of_config h

/-- Settles O22: both resets are the same state but for the free input; a second reset finds the configuration and
the input that the first one left. -/
theorem hostResetForgets : Obligations.HostResetForgets := by
  intro s s' hconfig
  refine ⟨⟨?_, rfl⟩, rfl, rfl, State.hostReset_eq_reset⟩
  have hsame : { s'.hostReset with rand := s.hostReset.rand, draws := s.hostReset.draws } = s.hostReset :=
    (State.hostReset_eq_of_config hconfig).symm
  rw [hsame]
  exact KeepsAll.refl s.hostReset

/-! ### A timer read or written in the cycle that counts it down (R271) -/

/-- Settles O57: the timer step follows the instruction in the same cycle, so it counts down the written value, and
FX07 has read DT before it. -/
theorem timerWriteDecrementsSameCycle : Obligations.TimerWriteDecrementsSameCycle := by
  refine fun x s => ⟨fun hf => ?_, fun hf => ?_, fun hf => ?_⟩
  · obtain ⟨hdt, -, -⟩ := ((s.setDt (s.reg x)).advance.setResult .ok).countsDown_endCycle
    exact ⟨_, step_of_exec hf rfl, hdt⟩
  · obtain ⟨-, hst, htone⟩ := ((s.setSt (s.reg x)).advance.setResult .ok).countsDown_endCycle
    exact ⟨_, step_of_exec hf rfl, hst, htone⟩
  · obtain ⟨hdt, -, -⟩ := ((s.setReg x s.dt).advance.setResult .ok).countsDown_endCycle
    have hreg : ((s.setReg x s.dt).advance.setResult .ok).endCycle.reg x = s.dt := by simp
    exact ⟨_, step_of_exec hf rfl, hreg, by rw [hreg]; exact hdt⟩

end Sys2Proof.Machine
